-- ==== Sys2Proof/Word.lean ====
section
/-! DEFINITION. The widths of the block's values (R11, R70, R90). -/

namespace Sys2Proof

/-- A register's data byte, u8 (R70). -/
abbrev Byte := BitVec 8

/-- A 16-bit accumulator, tap or step, u16 (R11). -/
abbrev Half := BitVec 16

/-- A register address, u7 (R70). -/
abbrev Addr := BitVec 7

/-- The packed write command `address : data`, 15 bits (R90). -/
abbrev CmdWord := BitVec 15

end Sys2Proof
end

