-- ==== Sys2Proof/Config.lean ====
section
/-! DEFINITION. What an implementation fixes: the open parameters of R8 as plain data, the byte layouts as
configuration records (their default values are in Decode.lean and Machine/Operands.lean), the arguments of `create`
(R6), and the free values. -/

namespace Sys2Proof

/-- The two output types (R104). -/
inductive OutputType where
  /-- APPROX = 0: the delayed mixed sample itself. -/
  | approx
  /-- EXACT = 1: the two-level PWM waveform. -/
  | exact
  deriving DecidableEq, Repr

/-- The parameters the source leaves open (R8), as data an instance carries unchanged. -/
structure Params where
  /-- `MIX_SCALE`, the mixer's fixed scaling constant (R256). -/
  mixScale : Nat
  /-- `MIX_SHIFT_BASE`, the width the mixer's shift is computed from (R256). -/
  mixShiftBase : Nat
  /-- `PAN_MULT` (R170): the config bytes at which it differs from its default, each with its factor.
  Every total function from u8 to naturals has such a list. -/
  panMultListed : List (Byte × Nat)
  /-- `ENV_ATTACK_POLARITY` of attack bit 0 (R196). -/
  slopeAtAttack0 : Bool
  /-- `ENV_ATTACK_POLARITY` of attack bit 1 (R196). -/
  slopeAtAttack1 : Bool
  deriving DecidableEq, Repr

/-- Where the fields of an octave/phase-reset byte lie (R95): the lowest bit of each. -/
structure OctPairLayout where
  firstOctave : Nat
  firstReset : Nat
  secondOctave : Nat
  secondReset : Nat
  deriving DecidableEq, Repr

/-- Where the fields of an envelope-octave byte lie (R100). -/
structure EnvOctLayout where
  octA : Nat
  octB : Nat
  deriving DecidableEq, Repr

/-- Where the fields of a channel-config byte lie (R98). -/
structure CfgLayout where
  noiseEn : Nat
  envEn : Nat
  envSel : Nat
  pan1 : Nat
  pan0 : Nat
  deriving DecidableEq, Repr

/-- Where the fields of an envelope-shape byte lie (R99): each generator's lowest bit, and each field's place above it. -/
structure ShapeLayout where
  genA : Nat
  genB : Nat
  hold : Nat
  alt : Nat
  attack : Nat
  reset : Nat
  deriving DecidableEq, Repr

/-- The arguments of `create`, with the construction parameters (R6, R8, R333). -/
structure CreateArgs where
  clockHz : Nat
  sampleRateHz : Nat
  outputType : OutputType
  writeQueueCapacity : Nat
  outputBitdepth : Nat
  params : Params
  deriving DecidableEq, Repr

namespace Config

/-- FREE VALUE: `MIX_SCALE` of the machine that `State.reset` stands for (R8, R256). The source gives no value; the
bound is R256's constraint `5100 * MIX_SCALE < 2^32` under the default `PAN_MULT` (log entry 2, DESIGN CHOICE). -/
opaque mixScale : Fin 842151

/-- FREE VALUE: `MIX_SHIFT_BASE` of the machine that `State.reset` stands for (R8, R256; log entry 2, DESIGN CHOICE). -/
opaque mixShiftBase : Nat

/-- The parameters of the machine that `State.reset` stands for: `PAN_MULT` and `ENV_ATTACK_POLARITY` at the defaults
of R170 and R196 (log entries 3 and 4), the mixer's two at the free values. -/
def resetParams : Params where
  mixScale := mixScale.val
  mixShiftBase := mixShiftBase
  panMultListed := []
  slopeAtAttack0 := true
  slopeAtAttack1 := false

/-- The `create` arguments of the machine that `State.reset` stands for (log entry 1, DESIGN CHOICE: the ones of the
spec's programs P1 to P5; `OUTPUT_BITDEPTH` is R6's default). -/
def resetArgs : CreateArgs where
  clockHz := 5120
  sampleRateHz := 10
  outputType := .approx
  writeQueueCapacity := 8
  outputBitdepth := 8
  params := resetParams

end Config

end Sys2Proof
end

