-- ==== Sys2Proof/Syntax.lean ====
section
/-! DEFINITION. The instructions: one constructor per row of spec/opcode_table.json. An instruction is one register
write (R90); its operands are the fields of its data byte (R93 to R100). -/

namespace Sys2Proof

/-- One entry of the write queue: a register address and a data byte (R46, R90). -/
structure WriteCmd where
  addr : Addr
  data : Byte
  deriving DecidableEq, Repr

/-- The register writes. Bytes that a register stores whole stay bytes (R94, R98, R99); the fields of the octave
registers, which no register stores whole, are taken apart (R95, R96, R100). -/
inductive Instr where
  /-- address 0, R130 -/
  | wTinc0 (d : Byte)
  /-- address 1, R131 -/
  | wTinc1 (d : Byte)
  /-- address 2, R132 -/
  | wTinc2 (d : Byte)
  /-- address 3, R133 -/
  | wTinc3 (d : Byte)
  /-- address 4, R134 -/
  | wTinc4 (d : Byte)
  /-- address 5, R135 -/
  | wNinc (d : Byte)
  /-- address 6, R136 -/
  | wOct01 (oct0 : BitVec 3) (rst0 : Bool) (oct1 : BitVec 3) (rst1 : Bool)
  /-- address 7, R137 -/
  | wOct23 (oct2 : BitVec 3) (rst2 : Bool) (oct3 : BitVec 3) (rst3 : Bool)
  /-- address 8, R138 -/
  | wOct4n (oct4 : BitVec 3) (rst4 : Bool) (octN : BitVec 3) (rstN : Bool)
  /-- address 9, R150 -/
  | wDuty0 (d : Byte)
  /-- address 10, R151 -/
  | wDuty1 (d : Byte)
  /-- address 11, R152 -/
  | wDuty2 (d : Byte)
  /-- address 12, R153 -/
  | wDuty3 (d : Byte)
  /-- address 13, R154 -/
  | wDuty4 (d : Byte)
  /-- address 14, R155 -/
  | wNtapl (d : Byte)
  /-- address 15, R156 -/
  | wNtaph (d : Byte)
  /-- address 16, R160 -/
  | wVol0 (d : Byte)
  /-- address 17, R161 -/
  | wVol1 (d : Byte)
  /-- address 18, R162 -/
  | wVol2 (d : Byte)
  /-- address 19, R163 -/
  | wVol3 (d : Byte)
  /-- address 20, R164 -/
  | wVol4 (d : Byte)
  /-- address 21, R165 -/
  | wCfg0 (d : Byte)
  /-- address 22, R166 -/
  | wCfg1 (d : Byte)
  /-- address 23, R167 -/
  | wCfg2 (d : Byte)
  /-- address 24, R168 -/
  | wCfg3 (d : Byte)
  /-- address 25, R169 -/
  | wCfg4 (d : Byte)
  /-- address 26, R190 -/
  | wEldl (d : Byte)
  /-- address 27, R191 -/
  | wEldh (d : Byte)
  /-- address 28, R192 -/
  | wEshape (d : Byte)
  /-- address 29, R197 -/
  | wEinca (d : Byte)
  /-- address 30, R198 -/
  | wEincb (d : Byte)
  /-- address 31, R199 -/
  | wEoct (octA : BitVec 4) (octB : BitVec 4)
  /-- addresses 32 to 63, R114 -/
  | wRsvd32To63 (a : Addr) (d : Byte)
  /-- addresses 64 to 127, R114 -/
  | wRsvd64To127 (a : Addr) (d : Byte)
  deriving DecidableEq, Repr

end Sys2Proof
end

