-- ==== Sys2Proof/WellFormed.lean ====
section
/-! DEFINITION. Which terms of `Instr` stand for a register write. Every operand's range is its type (R94, R97), but
for the address of a reserved write, which must lie in its row's range (R93, R114). -/

namespace Sys2Proof

/-- An instruction some word of the opcode table decodes to. -/
def Instr.wf : Instr → Bool
  | .wRsvd32To63 a _ => decide (32 ≤ a.toNat) && decide (a.toNat < 64)
  | .wRsvd64To127 a _ => decide (64 ≤ a.toNat)
  | .wTinc0 _ | .wTinc1 _ | .wTinc2 _ | .wTinc3 _ | .wTinc4 _ | .wNinc _ => true
  | .wOct01 _ _ _ _ | .wOct23 _ _ _ _ | .wOct4n _ _ _ _ => true
  | .wDuty0 _ | .wDuty1 _ | .wDuty2 _ | .wDuty3 _ | .wDuty4 _ => true
  | .wNtapl _ | .wNtaph _ => true
  | .wVol0 _ | .wVol1 _ | .wVol2 _ | .wVol3 _ | .wVol4 _ => true
  | .wCfg0 _ | .wCfg1 _ | .wCfg2 _ | .wCfg3 _ | .wCfg4 _ => true
  | .wEldl _ | .wEldh _ | .wEshape _ | .wEinca _ | .wEincb _ | .wEoct _ _ => true

end Sys2Proof
end

