-- ==== Sys2Proof/Decode.lean ====
section
/-! DEFINITION. Decoding a write command, total on all words and rejecting by name, and the encoder written from the
same table (R90 to R100, R114). -/

namespace Sys2Proof

/-- Why a number is no write command: the interface takes an address 0..127 and a data byte (R314). -/
inductive DecodeError where
  /-- An address above 127: no row of the address map. -/
  | addressAbove127
  /-- A data value above 255: not a byte. -/
  | dataAbove255
  deriving DecidableEq, Repr

/-! ### Layouts: R95 and R100 (log entry 5) -/

/-- R95: octave in bits 2:0 and 6:4, phase-reset strobe in bits 3 and 7. -/
def octPairLayout : OctPairLayout where
  firstOctave := 0
  firstReset := 3
  secondOctave := 4
  secondReset := 7

/-- R100: generator A in bits 3:0, B in bits 7:4. -/
def envOctLayout : EnvOctLayout where
  octA := 0
  octB := 4

/-- The first channel's octave field (R95). -/
def octFirst (d : Byte) : BitVec 3 := d.extractLsb' octPairLayout.firstOctave 3

/-- The first channel's phase-reset strobe (R95). -/
def rstFirst (d : Byte) : Bool := d.getLsbD octPairLayout.firstReset

/-- The second channel's octave field (R95). -/
def octSecond (d : Byte) : BitVec 3 := d.extractLsb' octPairLayout.secondOctave 3

/-- The second channel's phase-reset strobe (R95). -/
def rstSecond (d : Byte) : Bool := d.getLsbD octPairLayout.secondReset

/-- Envelope A's octave nibble (R100). -/
def octA (d : Byte) : BitVec 4 := d.extractLsb' envOctLayout.octA 4

/-- Envelope B's octave nibble (R100). -/
def octB (d : Byte) : BitVec 4 := d.extractLsb' envOctLayout.octB 4

/-! ### The command word (R90) -/

/-- The word `address : data` of a queue entry (R90). -/
def WriteCmd.word (c : WriteCmd) : CmdWord := c.addr ++ c.data

/-- Bits 14:8 of a word (R90). -/
def wordAddr (w : CmdWord) : Addr := w.extractLsb' 8 7

/-- Bits 7:0 of a word (R90). -/
def wordData (w : CmdWord) : Byte := w.extractLsb' 0 8

/-- The queue entry a word packs (R90). -/
def WriteCmd.ofWord (w : CmdWord) : WriteCmd := ⟨wordAddr w, wordData w⟩

/-! ### Decoding -/

/-- R91, R93, R113: the address alone selects the instruction, and every word has one. -/
def decodeWord (w : CmdWord) : Instr :=
  let d := wordData w
  match (wordAddr w).toNat with
  | 0 => .wTinc0 d
  | 1 => .wTinc1 d
  | 2 => .wTinc2 d
  | 3 => .wTinc3 d
  | 4 => .wTinc4 d
  | 5 => .wNinc d
  | 6 => .wOct01 (octFirst d) (rstFirst d) (octSecond d) (rstSecond d)
  | 7 => .wOct23 (octFirst d) (rstFirst d) (octSecond d) (rstSecond d)
  | 8 => .wOct4n (octFirst d) (rstFirst d) (octSecond d) (rstSecond d)
  | 9 => .wDuty0 d
  | 10 => .wDuty1 d
  | 11 => .wDuty2 d
  | 12 => .wDuty3 d
  | 13 => .wDuty4 d
  | 14 => .wNtapl d
  | 15 => .wNtaph d
  | 16 => .wVol0 d
  | 17 => .wVol1 d
  | 18 => .wVol2 d
  | 19 => .wVol3 d
  | 20 => .wVol4 d
  | 21 => .wCfg0 d
  | 22 => .wCfg1 d
  | 23 => .wCfg2 d
  | 24 => .wCfg3 d
  | 25 => .wCfg4 d
  | 26 => .wEldl d
  | 27 => .wEldh d
  | 28 => .wEshape d
  | 29 => .wEinca d
  | 30 => .wEincb d
  | 31 => .wEoct (octA d) (octB d)
  | n => if n < 64 then .wRsvd32To63 (wordAddr w) d else .wRsvd64To127 (wordAddr w) d

/-- Any number as a command word: 2^15 and above have an address above 127 and are rejected (R314). -/
def decode (w : Nat) : Except DecodeError Instr :=
  if w < 2 ^ 15 then .ok (decodeWord (BitVec.ofNat 15 w)) else .error .addressAbove127

/-- Any pair of numbers as a write command (R314). -/
def decodePair (address data : Nat) : Except DecodeError Instr :=
  if 127 < address then .error .addressAbove127
  else if 255 < data then .error .dataAbove255
  else decode (address * 256 + data)

/-- The instruction the decoder reads from an opcode-table word of `nbits` bits. -/
def decodeTableWord (nbits w : Nat) : Option Instr := (decode (w % 2 ^ nbits)).toOption

/-! ### Encoding -/

/-- The data byte of an octave/phase-reset write (R95). -/
def octPairByte (o₁ : BitVec 3) (r₁ : Bool) (o₂ : BitVec 3) (r₂ : Bool) : Byte :=
  o₁.setWidth 8 <<< octPairLayout.firstOctave ||| (BitVec.ofBool r₁).setWidth 8 <<< octPairLayout.firstReset
    ||| o₂.setWidth 8 <<< octPairLayout.secondOctave ||| (BitVec.ofBool r₂).setWidth 8 <<< octPairLayout.secondReset

/-- The data byte of an envelope-octave write (R100). -/
def envOctByte (a b : BitVec 4) : Byte :=
  a.setWidth 8 <<< envOctLayout.octA ||| b.setWidth 8 <<< envOctLayout.octB

/-- The register address an instruction writes (R93). -/
def Instr.address : Instr → Addr
  | .wTinc0 _ => 0
  | .wTinc1 _ => 1
  | .wTinc2 _ => 2
  | .wTinc3 _ => 3
  | .wTinc4 _ => 4
  | .wNinc _ => 5
  | .wOct01 _ _ _ _ => 6
  | .wOct23 _ _ _ _ => 7
  | .wOct4n _ _ _ _ => 8
  | .wDuty0 _ => 9
  | .wDuty1 _ => 10
  | .wDuty2 _ => 11
  | .wDuty3 _ => 12
  | .wDuty4 _ => 13
  | .wNtapl _ => 14
  | .wNtaph _ => 15
  | .wVol0 _ => 16
  | .wVol1 _ => 17
  | .wVol2 _ => 18
  | .wVol3 _ => 19
  | .wVol4 _ => 20
  | .wCfg0 _ => 21
  | .wCfg1 _ => 22
  | .wCfg2 _ => 23
  | .wCfg3 _ => 24
  | .wCfg4 _ => 25
  | .wEldl _ => 26
  | .wEldh _ => 27
  | .wEshape _ => 28
  | .wEinca _ => 29
  | .wEincb _ => 30
  | .wEoct _ _ => 31
  | .wRsvd32To63 a _ => a
  | .wRsvd64To127 a _ => a

/-- The data byte an instruction carries (R93 to R100). -/
def Instr.dataByte : Instr → Byte
  | .wTinc0 d | .wTinc1 d | .wTinc2 d | .wTinc3 d | .wTinc4 d | .wNinc d => d
  | .wOct01 o₁ r₁ o₂ r₂ | .wOct23 o₁ r₁ o₂ r₂ | .wOct4n o₁ r₁ o₂ r₂ => octPairByte o₁ r₁ o₂ r₂
  | .wDuty0 d | .wDuty1 d | .wDuty2 d | .wDuty3 d | .wDuty4 d => d
  | .wNtapl d | .wNtaph d => d
  | .wVol0 d | .wVol1 d | .wVol2 d | .wVol3 d | .wVol4 d => d
  | .wCfg0 d | .wCfg1 d | .wCfg2 d | .wCfg3 d | .wCfg4 d => d
  | .wEldl d | .wEldh d | .wEshape d | .wEinca d | .wEincb d => d
  | .wEoct a b => envOctByte a b
  | .wRsvd32To63 _ d | .wRsvd64To127 _ d => d

/-- The queue entry of an instruction. -/
def Instr.cmd (i : Instr) : WriteCmd := ⟨i.address, i.dataByte⟩

/-- The word of an instruction (R90). -/
def encode (i : Instr) : CmdWord := i.cmd.word

end Sys2Proof
end

