-- ==== Sys2Proof/Machine/State.lean ====
section
/-! DEFINITION. The state of one core instance (spec/10_state.md), its values after create and reset, and the reasons
a step or a host call can stop. Plain data throughout. -/

namespace Sys2Proof.Machine

/-- The five tone channels (R7). -/
inductive Chan where
  | c0
  | c1
  | c2
  | c3
  | c4
  deriving DecidableEq, Repr

/-- The two envelope generators (R7). -/
inductive Gen where
  | A
  | B
  deriving DecidableEq, Repr

/-- One value for each tone channel: an array indexed 0..4 in the spec. -/
structure PerChan (α : Type) where
  c0 : α
  c1 : α
  c2 : α
  c3 : α
  c4 : α
  deriving DecidableEq, Repr

/-- One value for each envelope generator. -/
structure PerGen (α : Type) where
  A : α
  B : α
  deriving DecidableEq, Repr

/-- The same value for every tone channel. -/
def PerChan.const {α : Type} (v : α) : PerChan α := ⟨v, v, v, v, v⟩

/-- The same value for both generators. -/
def PerGen.const {α : Type} (v : α) : PerGen α := ⟨v, v⟩

/-- The two quality modes (R49). -/
inductive Quality where
  /-- 0: the output of the most recent tick. -/
  | nearest
  /-- 1: the mean of the call's per-tick outputs. -/
  | mean
  deriving DecidableEq, Repr

/-- The state register writes change (R22 to R33). -/
structure RegFile where
  /-- R23 -/
  toneIncrement : PerChan Byte
  /-- R24 -/
  toneOctave : PerChan (BitVec 3)
  /-- R25 -/
  shiftedIncrement : PerChan Half
  /-- R26 -/
  dutyCycle : PerChan Byte
  /-- R27 -/
  staticVolume : PerChan Byte
  /-- R28 -/
  channelConfig : PerChan Byte
  /-- R29 -/
  noiseIncrement : Byte
  /-- R29 -/
  noiseOctave : BitVec 3
  /-- R29 -/
  noiseShiftedIncrement : Half
  /-- R30 -/
  noiseXorTap : Half
  /-- R31 -/
  envLoadBuffer : Half
  /-- R32 -/
  envShape : Byte
  /-- R33 -/
  envIncrement : PerGen Byte
  /-- R33 -/
  envOctave : PerGen (BitVec 4)
  /-- R33 -/
  envShiftedIncrement : PerGen Half
  deriving DecidableEq, Repr

/-- The running synthesis state (R34 to R41). The transient tone bits of R42 are a local of the update cycle. -/
structure Synth where
  /-- R34 -/
  tonePhaseAcc : PerChan Half
  /-- R35 -/
  noisePhaseAcc : Half
  /-- R36 -/
  noiseLFSR : Half
  /-- R37 -/
  noiseMask : Byte
  /-- R38 -/
  envPhaseAcc : PerGen Half
  /-- R39 -/
  envState : PerGen Byte
  /-- R40 -/
  envSmpVolume : PerGen Byte
  /-- R41 -/
  envHalted : PerGen Bool
  /-- R41: clear means the output is complemented (R236). -/
  envSlope : PerGen Bool
  deriving DecidableEq, Repr

/-- The two-slot PWM delay ring (R44). -/
structure Ring where
  slot0 : Nat
  slot1 : Nat
  deriving DecidableEq, Repr

/-- The output pipeline (R43 to R45). -/
structure OutStage where
  /-- R43, before muting -/
  channelOutput : PerChan Nat
  /-- R44 -/
  delayRing : Ring
  /-- R45 -/
  currentOutput : Nat
  deriving DecidableEq, Repr

/-- What a reset preserves beside the write queue (R331): the converter's ratio and the emulator configuration. -/
structure Settings where
  /-- R54 -/
  clockHz : Nat
  /-- R54 -/
  sampleRateHz : Nat
  /-- R47, an exact rational -/
  ticksPerOutputSample : Rat
  /-- R51 -/
  outputType : OutputType
  /-- R49 -/
  quality : Quality
  /-- R50 -/
  scratchAvailable : Bool
  /-- R52 -/
  outputBitdepth : Nat
  /-- `WQ_CAPACITY`, R6, R46 -/
  writeQueueCapacity : Nat
  /-- R53 -/
  mute : PerChan Bool
  deriving DecidableEq, Repr

/-- One core instance. -/
structure State where
  /-- R21 -/
  clockCycle : BitVec 32
  regs : RegFile
  synth : Synth
  out : OutStage
  /-- R46, oldest first -/
  writeQueue : List WriteCmd
  /-- R48, an exact rational -/
  tickAccumulator : Rat
  settings : Settings
  /-- The model's own: the outputs `rec` of the produceSample call in progress, oldest first (R280, R286). -/
  recorded : List Nat
  /-- The model's own: the open parameters of R8, which nothing changes. -/
  params : Params
  deriving DecidableEq, Repr

/-- R310, R316: no operation of the core raises an exception, traps or stops, so there is no fault. -/
inductive Fault where
  deriving DecidableEq, Repr

/-- Why a call is turned away. No register write and no tick is refused; each constructor but the first is a boundary
refusal of the host interface (R314, R334). All are safe: the model stops where the host must not go. -/
inductive Refusal where
  /-- Raised by an arm of exec whose instruction has no meaning yet; no arm does so. Safe. -/
  | notModelled (mnemonic : String)
  /-- enqueueWrite with an address above 127 (R314). Safe. -/
  | addressAbove127
  /-- enqueueWrite with data above 255 (R314). Safe. -/
  | dataAbove255
  /-- create or setClockAndRate with clockHz = 0 (R314). Safe. -/
  | zeroClock
  /-- create or setClockAndRate with sampleRateHz = 0 (R314). Safe. -/
  | zeroSampleRate
  /-- create with OUTPUT_BITDEPTH outside 1..32 (R314). Safe. -/
  | bitdepthOutOfRange
  /-- setOutputType with a value other than 0 and 1 (R104, R314). Safe. -/
  | unknownOutputType
  /-- A call on a handle that names no instance (R334). Safe. -/
  | deadHandle
  /-- A script's W16 on an address other than 14 and 26 (R105). Safe. -/
  | illegalW16
  deriving DecidableEq, Repr

/-- The register file after reset (R330): all zero but the noise tap. -/
def RegFile.reset : RegFile where
  toneIncrement := .const 0
  toneOctave := .const 0
  shiftedIncrement := .const 0
  dutyCycle := .const 0
  staticVolume := .const 0
  channelConfig := .const 0
  noiseIncrement := 0
  noiseOctave := 0
  noiseShiftedIncrement := 0
  noiseXorTap := 0x2400
  envLoadBuffer := 0
  envShape := 0
  envIncrement := .const 0
  envOctave := .const 0
  envShiftedIncrement := .const 0

/-- The running synthesis state after reset (R330). -/
def Synth.reset : Synth where
  tonePhaseAcc := .const 0
  noisePhaseAcc := 0
  noiseLFSR := 0
  noiseMask := 0
  envPhaseAcc := .const 0
  envState := .const 0
  envSmpVolume := .const 0
  envHalted := .const false
  envSlope := .const false

/-- The output pipeline after reset (R330). -/
def OutStage.reset : OutStage where
  channelOutput := .const 0
  delayRing := ⟨0, 0⟩
  currentOutput := 0

/-- The exact ratio `clockHz / sampleRateHz` (R47). -/
def tickRatio (clockHz sampleRateHz : Nat) : Rat := mkRat clockHz sampleRateHz

/-- The instance `create` makes (R333), given the outcome of the scratch buffer's allocation (R297). -/
def State.created (args : CreateArgs) (scratch : Bool) : State where
  clockCycle := 0
  regs := .reset
  synth := .reset
  out := .reset
  writeQueue := []
  tickAccumulator := 0
  settings :=
    { clockHz := args.clockHz
      sampleRateHz := args.sampleRateHz
      ticksPerOutputSample := tickRatio args.clockHz args.sampleRateHz
      outputType := args.outputType
      quality := .nearest
      scratchAvailable := scratch
      outputBitdepth := args.outputBitdepth
      writeQueueCapacity := args.writeQueueCapacity
      mute := .const false }
  recorded := []
  params := args.params

/-- The machine right after create and reset (spec/10_state.md section 7), for the arguments log entry 1 names. -/
def State.reset : State := State.created Config.resetArgs true

end Sys2Proof.Machine
end

