-- ==== Sys2Proof/Machine/Operands.lean ====
section
/-! DEFINITION. The operand forms: the pitch shifts, the fields of the config and shape bytes, the bytes of the 16-bit
registers, the load-buffer mapping and the volume multiplier. -/

namespace Sys2Proof.Machine

/-! ### Pitch shifts -/

/-- R139: `inc << (1 + oct)`. -/
def pitchShift (inc : Byte) (oct : BitVec 3) : Half := inc.setWidth 16 <<< (1 + oct.toNat)

/-- R200: `inc << (1 + oct[2:0])`. -/
def envShift (inc : Byte) (oct : BitVec 4) : Half := pitchShift inc (oct.extractLsb' 0 3)

/-- R231: the highest octave bit, which adds 8 to the shift during the update. -/
def envHighOctave (oct : BitVec 4) : Bool := oct.getLsbD 3

/-! ### Bytes of 16-bit registers (R73) -/

/-- `v[15:8]`. -/
def highByte (v : Half) : Byte := v.extractLsb' 8 8

/-- `v[7:0]`. -/
def lowByte (v : Half) : Byte := v.extractLsb' 0 8

/-- `v` with its low byte replaced (R155, R190). -/
def withLowByte (v : Half) (d : Byte) : Half := highByte v ++ d

/-- `v` with its high byte replaced (R156, R191). -/
def withHighByte (v : Half) (d : Byte) : Half := d ++ lowByte v

/-! ### Load-buffer mapping (R195, log entry 7) -/

/-- R195: the state an envelope reset loads. -/
def loadState (buf : Half) : Byte := highByte buf

/-- R195: the phase accumulator an envelope reset loads, `buf[7:0] << 8`. -/
def loadPhase (buf : Half) : Half := lowByte buf ++ (0 : Byte)

/-! ### Channel config (R98, R171; log entry 5) -/

/-- R98: NOISE_EN 7, ENV_EN 6, ENV_SEL 5, PAN1 3:2, PAN0 1:0. -/
def cfgLayout : CfgLayout where
  noiseEn := 7
  envEn := 6
  envSel := 5
  pan1 := 2
  pan0 := 0

/-- `NOISE_EN(c)`. -/
def noiseEn (c : Byte) : Bool := c.getLsbD cfgLayout.noiseEn

/-- `ENV_EN(c)`. -/
def envEn (c : Byte) : Bool := c.getLsbD cfgLayout.envEn

/-- `ENV_SEL(c)`: 0 selects envelope A, 1 envelope B. -/
def envSel (c : Byte) : Gen := if c.getLsbD cfgLayout.envSel then .B else .A

/-- `PAN1(c)`: stored; the default multiplier does not read it. -/
def pan1 (c : Byte) : BitVec 2 := c.extractLsb' cfgLayout.pan1 2

/-- `PAN0(c)`. -/
def pan0 (c : Byte) : BitVec 2 := c.extractLsb' cfgLayout.pan0 2

/-- R170: the default of `PAN_MULT`, `PAN0 + 1`. -/
def panMultDefault (c : Byte) : Nat := (pan0 c).toNat + 1

/-- R170: `PAN_MULT(c)` of an instance: the listed factor, or else the default (log entry 3). -/
def panMult (p : Params) (c : Byte) : Nat := (p.panMultListed.lookup c).getD (panMultDefault c)

/-! ### Envelope shape (R99; log entry 5) -/

/-- R99: A in the low nibble, B in the high; within a nibble hold, alternate, attack, reset. -/
def shapeLayout : ShapeLayout where
  genA := 0
  genB := 4
  hold := 0
  alt := 1
  attack := 2
  reset := 3

/-- R99: `n(g)`, the lowest bit of a generator's nibble. -/
def shapeBase : Gen → Nat
  | .A => shapeLayout.genA
  | .B => shapeLayout.genB

/-- `HOLD(g)`. -/
def holdBit (g : Gen) (shape : Byte) : Bool := shape.getLsbD (shapeBase g + shapeLayout.hold)

/-- `ALT(g)`. -/
def altBit (g : Gen) (shape : Byte) : Bool := shape.getLsbD (shapeBase g + shapeLayout.alt)

/-- `ATK(g)`. -/
def attackBit (g : Gen) (shape : Byte) : Bool := shape.getLsbD (shapeBase g + shapeLayout.attack)

/-- `RST(g)`. -/
def resetBit (g : Gen) (shape : Byte) : Bool := shape.getLsbD (shapeBase g + shapeLayout.reset)

/-- R27, R253: bit 7 of the static volume, which when clear halves the envelope level. -/
def fullEnvelope (vol : Byte) : Bool := vol.getLsbD 7

end Sys2Proof.Machine
end

