-- ==== Sys2Proof/Machine/Flags.lean ====
section
/-! DEFINITION. The state that behaves as flags (R56): how each flag-like bit is computed. -/

namespace Sys2Proof.Machine

/-- R211: the tone bit, from the post-increment accumulator and the duty cycle. -/
def toneBit (acc : Half) (duty : Byte) : Bool := decide (acc.toNat / 256 < duty.toNat)

/-- R214: the noise addition wrapped, seen from the post-increment accumulator and the step just added. -/
def noiseWrapped (acc step : Half) : Bool := decide (acc.toNat < step.toNat)

/-- R216: the mask the feedback bit selects (log entry 6). -/
def noiseMaskOf (fb : Bool) : Byte := if fb then 0xFF else 0x00

/-- R233: the addition overflowed `envState`, seen from the post-addition state and the carry. -/
def envOverflow (state carry : Byte) : Bool := carry != 0 && decide (state.toNat < carry.toNat)

/-- R193: the attack bit of generator `g` changes between the stored byte and the new one. -/
def attackEdge (g : Gen) (old new : Byte) : Bool := attackBit g old != attackBit g new

/-- R193: the slope flag after the attack edge of an address-28 write. -/
def slopeAfterEdge (g : Gen) (old new : Byte) (slope : Bool) : Bool :=
  if attackEdge g old new then !slope else slope

/-- R196: `ENV_ATTACK_POLARITY(a)` of an instance (log entry 4). -/
def attackPolarity (p : Params) (a : Bool) : Bool := if a then p.slopeAtAttack1 else p.slopeAtAttack0

end Sys2Proof.Machine
end

