-- ==== Sys2Proof/Machine/Ops.lean ====
section
/-! DEFINITION. The named operations over the state's arrays, the register file, the delay ring and the write queue.
The block takes no exception and returns from none (R310, R316), so no such operation is here. -/

namespace Sys2Proof.Machine

/-! ### Arrays -/

/-- `x[i]`. -/
def PerChan.get {α : Type} (x : PerChan α) : Chan → α
  | .c0 => x.c0
  | .c1 => x.c1
  | .c2 => x.c2
  | .c3 => x.c3
  | .c4 => x.c4

/-- `x[i] <- v`. -/
def PerChan.set {α : Type} (x : PerChan α) (i : Chan) (v : α) : PerChan α :=
  match i with
  | .c0 => { x with c0 := v }
  | .c1 => { x with c1 := v }
  | .c2 => { x with c2 := v }
  | .c3 => { x with c3 := v }
  | .c4 => { x with c4 := v }

/-- The array whose element `i` is `f i`: the loop `for i in 0..4`. -/
def PerChan.ofFn {α : Type} (f : Chan → α) : PerChan α := ⟨f .c0, f .c1, f .c2, f .c3, f .c4⟩

/-- `x[g]`. -/
def PerGen.get {α : Type} (x : PerGen α) : Gen → α
  | .A => x.A
  | .B => x.B

/-- `x[g] <- v`. -/
def PerGen.set {α : Type} (x : PerGen α) (g : Gen) (v : α) : PerGen α :=
  match g with
  | .A => { x with A := v }
  | .B => { x with B := v }

/-- The array whose element `g` is `f g`: the loop `for g in {A, B}`. -/
def PerGen.ofFn {α : Type} (f : Gen → α) : PerGen α := ⟨f .A, f .B⟩

/-- The channel a number names, if it names one (R294). -/
def Chan.ofNat? : Nat → Option Chan
  | 0 => some .c0
  | 1 => some .c1
  | 2 => some .c2
  | 3 => some .c3
  | 4 => some .c4
  | _ => none

/-- The channels in order. -/
def Chan.all : List Chan := [.c0, .c1, .c2, .c3, .c4]

/-- The slot a period number names, modulo 2 (R258, R259). -/
def Ring.get (r : Ring) (n : Nat) : Nat := if n % 2 = 0 then r.slot0 else r.slot1

/-- Write the slot a period number names, modulo 2 (R258). -/
def Ring.set (r : Ring) (n : Nat) (v : Nat) : Ring :=
  if n % 2 = 0 then { r with slot0 := v } else { r with slot1 := v }

/-! ### The register file -/

/-- The tone increment store (R130 to R134). -/
def setToneIncrement (i : Chan) (d : Byte) (s : State) : State :=
  { s with regs := { s.regs with
      toneIncrement := s.regs.toneIncrement.set i d
      shiftedIncrement := s.regs.shiftedIncrement.set i (pitchShift d (s.regs.toneOctave.get i)) } }

/-- The noise increment store (R135). -/
def setNoiseIncrement (d : Byte) (s : State) : State :=
  { s with regs := { s.regs with
      noiseIncrement := d
      noiseShiftedIncrement := pitchShift d s.regs.noiseOctave } }

/-- A tone octave field: the step is recomputed only if the octave changed (R136 to R138). -/
def setToneOctave (i : Chan) (o : BitVec 3) (s : State) : State :=
  if o = s.regs.toneOctave.get i then s
  else { s with regs := { s.regs with
      toneOctave := s.regs.toneOctave.set i o
      shiftedIncrement := s.regs.shiftedIncrement.set i (pitchShift (s.regs.toneIncrement.get i) o) } }

/-- The noise octave field (R138). -/
def setNoiseOctave (o : BitVec 3) (s : State) : State :=
  if o = s.regs.noiseOctave then s
  else { s with regs := { s.regs with
      noiseOctave := o
      noiseShiftedIncrement := pitchShift s.regs.noiseIncrement o } }

/-- A tone phase-reset strobe (R136 to R138, R96). -/
def strobeTonePhase (i : Chan) (rst : Bool) (s : State) : State :=
  if rst then { s with synth := { s.synth with tonePhaseAcc := s.synth.tonePhaseAcc.set i 0 } } else s

/-- The noise phase-reset strobe: the LFSR and the mask stay (R138). -/
def strobeNoisePhase (rst : Bool) (s : State) : State :=
  if rst then { s with synth := { s.synth with noisePhaseAcc := 0 } } else s

/-- One nibble of an octave register that serves a tone channel: octave, then strobe (R136). -/
def writeToneNibble (i : Chan) (o : BitVec 3) (rst : Bool) (s : State) : State :=
  strobeTonePhase i rst (setToneOctave i o s)

/-- The nibble of address 8 that serves the noise generator (R138). -/
def writeNoiseNibble (o : BitVec 3) (rst : Bool) (s : State) : State :=
  strobeNoisePhase rst (setNoiseOctave o s)

/-- The duty-cycle store (R150 to R154). -/
def setDutyCycle (i : Chan) (d : Byte) (s : State) : State :=
  { s with regs := { s.regs with dutyCycle := s.regs.dutyCycle.set i d } }

/-- The static-volume store (R160 to R164). -/
def setStaticVolume (i : Chan) (d : Byte) (s : State) : State :=
  { s with regs := { s.regs with staticVolume := s.regs.staticVolume.set i d } }

/-- The channel-config store, all 8 bits (R165 to R169). -/
def setChannelConfig (i : Chan) (d : Byte) (s : State) : State :=
  { s with regs := { s.regs with channelConfig := s.regs.channelConfig.set i d } }

/-- The noise tap store (R155, R156). -/
def setNoiseTap (v : Half) (s : State) : State :=
  { s with regs := { s.regs with noiseXorTap := v } }

/-- The load-buffer store (R190, R191). -/
def setEnvLoadBuffer (v : Half) (s : State) : State :=
  { s with regs := { s.regs with envLoadBuffer := v } }

/-- The envelope increment store (R197, R198). -/
def setEnvIncrement (g : Gen) (d : Byte) (s : State) : State :=
  { s with regs := { s.regs with
      envIncrement := s.regs.envIncrement.set g d
      envShiftedIncrement := s.regs.envShiftedIncrement.set g (envShift d (s.regs.envOctave.get g)) } }

/-- An envelope octave nibble: the step is recomputed only if the nibble changed (R199). -/
def setEnvOctave (g : Gen) (o : BitVec 4) (s : State) : State :=
  if o = s.regs.envOctave.get g then s
  else { s with regs := { s.regs with
      envOctave := s.regs.envOctave.set g o
      envShiftedIncrement := s.regs.envShiftedIncrement.set g (envShift (s.regs.envIncrement.get g) o) } }

/-! ### The envelope shape write (R192) -/

/-- Step 1 of R192: an edge on an attack bit toggles that generator's slope flag (R193). -/
def latchAttackEdges (d : Byte) (s : State) : State :=
  { s with synth := { s.synth with
      envSlope := .ofFn fun g => slopeAfterEdge g s.regs.envShape d (s.synth.envSlope.get g) } }

/-- Step 2 of R192: the whole byte is stored (R194). -/
def storeShape (d : Byte) (s : State) : State := { s with regs := { s.regs with envShape := d } }

/-- Step 3 of R192 for one generator: the reload (R195) and the flag re-arm (R196). -/
def reloadEnvelope (g : Gen) (d : Byte) (s : State) : State :=
  if resetBit g d then
    { s with synth := { s.synth with
        envState := s.synth.envState.set g (loadState s.regs.envLoadBuffer)
        envPhaseAcc := s.synth.envPhaseAcc.set g (loadPhase s.regs.envLoadBuffer)
        envHalted := s.synth.envHalted.set g false
        envSlope := s.synth.envSlope.set g (attackPolarity s.params (attackBit g d)) } }
  else s

/-! ### The write queue -/

/-- The append of R110: below capacity at the tail, otherwise nothing. -/
def pushWrite (c : WriteCmd) (s : State) : State :=
  if s.writeQueue.length < s.settings.writeQueueCapacity then { s with writeQueue := s.writeQueue ++ [c] } else s

/-- The removal of R112: the oldest entry, and the state without it. -/
def popWrite (s : State) : Option (WriteCmd × State) :=
  match s.writeQueue with
  | [] => none
  | c :: rest => some (c, { s with writeQueue := rest })

/-- The queue entry of an opcode-table word of `nbits` bits, if its address and data fit one. -/
def tableCmd (nbits w : Nat) : Option WriteCmd :=
  if w % 2 ^ nbits < 2 ^ 15 then some (WriteCmd.ofWord (BitVec.ofNat 15 (w % 2 ^ nbits))) else none

/-- Put an entry where the next tick takes it from: the head of the queue. -/
def placeWrite (c : WriteCmd) (s : State) : State := { s with writeQueue := c :: s.writeQueue.tail }

end Sys2Proof.Machine
end

