-- ==== Sys2Proof/Machine/Channel.lean ====
section
/-! DEFINITION. The meanings of the channel registers, addresses 9 to 25 (spec/42_channel_registers.md). -/

namespace Sys2Proof.Machine

/-- R150, W_DUTY0. -/
def execDuty0 (d : Byte) (s : State) : Host.Outcome State Fault Refusal := .next (setDutyCycle .c0 d s)

/-- R151, W_DUTY1. -/
def execDuty1 (d : Byte) (s : State) : Host.Outcome State Fault Refusal := .next (setDutyCycle .c1 d s)

/-- R152, W_DUTY2. -/
def execDuty2 (d : Byte) (s : State) : Host.Outcome State Fault Refusal := .next (setDutyCycle .c2 d s)

/-- R153, W_DUTY3. -/
def execDuty3 (d : Byte) (s : State) : Host.Outcome State Fault Refusal := .next (setDutyCycle .c3 d s)

/-- R154, W_DUTY4. -/
def execDuty4 (d : Byte) (s : State) : Host.Outcome State Fault Refusal := .next (setDutyCycle .c4 d s)

/-- R155, W_NTAPL. -/
def execNtapl (d : Byte) (s : State) : Host.Outcome State Fault Refusal := .next (setNoiseTap (withLowByte s.regs.noiseXorTap d) s)

/-- R156, W_NTAPH. -/
def execNtaph (d : Byte) (s : State) : Host.Outcome State Fault Refusal := .next (setNoiseTap (withHighByte s.regs.noiseXorTap d) s)

/-- R160, W_VOL0. -/
def execVol0 (d : Byte) (s : State) : Host.Outcome State Fault Refusal := .next (setStaticVolume .c0 d s)

/-- R161, W_VOL1. -/
def execVol1 (d : Byte) (s : State) : Host.Outcome State Fault Refusal := .next (setStaticVolume .c1 d s)

/-- R162, W_VOL2. -/
def execVol2 (d : Byte) (s : State) : Host.Outcome State Fault Refusal := .next (setStaticVolume .c2 d s)

/-- R163, W_VOL3. -/
def execVol3 (d : Byte) (s : State) : Host.Outcome State Fault Refusal := .next (setStaticVolume .c3 d s)

/-- R164, W_VOL4. -/
def execVol4 (d : Byte) (s : State) : Host.Outcome State Fault Refusal := .next (setStaticVolume .c4 d s)

/-- R165, W_CFG0. -/
def execCfg0 (d : Byte) (s : State) : Host.Outcome State Fault Refusal := .next (setChannelConfig .c0 d s)

/-- R166, W_CFG1. -/
def execCfg1 (d : Byte) (s : State) : Host.Outcome State Fault Refusal := .next (setChannelConfig .c1 d s)

/-- R167, W_CFG2. -/
def execCfg2 (d : Byte) (s : State) : Host.Outcome State Fault Refusal := .next (setChannelConfig .c2 d s)

/-- R168, W_CFG3. -/
def execCfg3 (d : Byte) (s : State) : Host.Outcome State Fault Refusal := .next (setChannelConfig .c3 d s)

/-- R169, W_CFG4. -/
def execCfg4 (d : Byte) (s : State) : Host.Outcome State Fault Refusal := .next (setChannelConfig .c4 d s)

end Sys2Proof.Machine
end

