-- ==== Sys2Proof/Machine/Envelope.lean ====
section
/-! DEFINITION. The meanings of the envelope registers, addresses 26 to 31 (spec/43_envelope_registers.md). -/

namespace Sys2Proof.Machine

/-- R190, W_ELDL. -/
def execEldl (d : Byte) (s : State) : Host.Outcome State Fault Refusal := .next (setEnvLoadBuffer (withLowByte s.regs.envLoadBuffer d) s)

/-- R191, W_ELDH. -/
def execEldh (d : Byte) (s : State) : Host.Outcome State Fault Refusal := .next (setEnvLoadBuffer (withHighByte s.regs.envLoadBuffer d) s)

/-- R192, W_ESHAPE: the attack edges, the store, then the reloads, in this order. -/
def execEshape (d : Byte) (s : State) : Host.Outcome State Fault Refusal :=
  .next (reloadEnvelope .B d (reloadEnvelope .A d (storeShape d (latchAttackEdges d s))))

/-- R197, W_EINCA. -/
def execEinca (d : Byte) (s : State) : Host.Outcome State Fault Refusal := .next (setEnvIncrement .A d s)

/-- R198, W_EINCB. -/
def execEincb (d : Byte) (s : State) : Host.Outcome State Fault Refusal := .next (setEnvIncrement .B d s)

/-- R199, W_EOCT. -/
def execEoct (octA octB : BitVec 4) (s : State) : Host.Outcome State Fault Refusal := .next (setEnvOctave .B octB (setEnvOctave .A octA s))

end Sys2Proof.Machine
end

