-- ==== Sys2Proof/Machine/Pitch.lean ====
section
/-! DEFINITION. The meanings of the pitch registers, addresses 0 to 8 (spec/41_pitch_registers.md). -/

namespace Sys2Proof.Machine

/-- R130, W_TINC0. -/
def execTinc0 (d : Byte) (s : State) : Host.Outcome State Fault Refusal := .next (setToneIncrement .c0 d s)

/-- R131, W_TINC1. -/
def execTinc1 (d : Byte) (s : State) : Host.Outcome State Fault Refusal := .next (setToneIncrement .c1 d s)

/-- R132, W_TINC2. -/
def execTinc2 (d : Byte) (s : State) : Host.Outcome State Fault Refusal := .next (setToneIncrement .c2 d s)

/-- R133, W_TINC3. -/
def execTinc3 (d : Byte) (s : State) : Host.Outcome State Fault Refusal := .next (setToneIncrement .c3 d s)

/-- R134, W_TINC4. -/
def execTinc4 (d : Byte) (s : State) : Host.Outcome State Fault Refusal := .next (setToneIncrement .c4 d s)

/-- R135, W_NINC. -/
def execNinc (d : Byte) (s : State) : Host.Outcome State Fault Refusal := .next (setNoiseIncrement d s)

/-- R136, W_OCT01. -/
def execOct01 (oct0 : BitVec 3) (rst0 : Bool) (oct1 : BitVec 3) (rst1 : Bool) (s : State) :
    Host.Outcome State Fault Refusal :=
  .next (writeToneNibble .c1 oct1 rst1 (writeToneNibble .c0 oct0 rst0 s))

/-- R137, W_OCT23. -/
def execOct23 (oct2 : BitVec 3) (rst2 : Bool) (oct3 : BitVec 3) (rst3 : Bool) (s : State) :
    Host.Outcome State Fault Refusal :=
  .next (writeToneNibble .c3 oct3 rst3 (writeToneNibble .c2 oct2 rst2 s))

/-- R138, W_OCT4N: the second nibble serves the noise generator. -/
def execOct4n (oct4 : BitVec 3) (rst4 : Bool) (octN : BitVec 3) (rstN : Bool) (s : State) :
    Host.Outcome State Fault Refusal :=
  .next (writeNoiseNibble octN rstN (writeToneNibble .c4 oct4 rst4 s))

end Sys2Proof.Machine
end

