-- ==== Sys2Proof/Machine/Reserved.lean ====
section
/-! DEFINITION. The meanings of the reserved writes, addresses 32 to 127 (R114): nothing changes. -/

namespace Sys2Proof.Machine

/-- R114, W_RSVD_32_63: `skip`, whatever the address and the data. -/
def execRsvd32To63 (_a : Addr) (_d : Byte) (s : State) : Host.Outcome State Fault Refusal := .next s

/-- R114, W_RSVD_64_127: `skip`, whatever the address and the data. -/
def execRsvd64To127 (_a : Addr) (_d : Byte) (s : State) : Host.Outcome State Fault Refusal := .next s

end Sys2Proof.Machine
end

