-- ==== Sys2Proof/Machine/Dispatch.lean ====
section
/-! DEFINITION. `Apply` of R113: one arm per register write. -/

namespace Sys2Proof.Machine

def exec (i : Instr) (s : State) : Host.Outcome State Fault Refusal :=
  match i with
  | .wTinc0 d => Sys2Proof.Machine.execTinc0 d s
  | .wTinc1 d => Sys2Proof.Machine.execTinc1 d s
  | .wTinc2 d => Sys2Proof.Machine.execTinc2 d s
  | .wTinc3 d => Sys2Proof.Machine.execTinc3 d s
  | .wTinc4 d => Sys2Proof.Machine.execTinc4 d s
  | .wNinc d => Sys2Proof.Machine.execNinc d s
  | .wOct01 oct0 rst0 oct1 rst1 => Sys2Proof.Machine.execOct01 oct0 rst0 oct1 rst1 s
  | .wOct23 oct2 rst2 oct3 rst3 => Sys2Proof.Machine.execOct23 oct2 rst2 oct3 rst3 s
  | .wOct4n oct4 rst4 octN rstN => Sys2Proof.Machine.execOct4n oct4 rst4 octN rstN s
  | .wDuty0 d => Sys2Proof.Machine.execDuty0 d s
  | .wDuty1 d => Sys2Proof.Machine.execDuty1 d s
  | .wDuty2 d => Sys2Proof.Machine.execDuty2 d s
  | .wDuty3 d => Sys2Proof.Machine.execDuty3 d s
  | .wDuty4 d => Sys2Proof.Machine.execDuty4 d s
  | .wNtapl d => Sys2Proof.Machine.execNtapl d s
  | .wNtaph d => Sys2Proof.Machine.execNtaph d s
  | .wVol0 d => Sys2Proof.Machine.execVol0 d s
  | .wVol1 d => Sys2Proof.Machine.execVol1 d s
  | .wVol2 d => Sys2Proof.Machine.execVol2 d s
  | .wVol3 d => Sys2Proof.Machine.execVol3 d s
  | .wVol4 d => Sys2Proof.Machine.execVol4 d s
  | .wCfg0 d => Sys2Proof.Machine.execCfg0 d s
  | .wCfg1 d => Sys2Proof.Machine.execCfg1 d s
  | .wCfg2 d => Sys2Proof.Machine.execCfg2 d s
  | .wCfg3 d => Sys2Proof.Machine.execCfg3 d s
  | .wCfg4 d => Sys2Proof.Machine.execCfg4 d s
  | .wEldl d => Sys2Proof.Machine.execEldl d s
  | .wEldh d => Sys2Proof.Machine.execEldh d s
  | .wEshape d => Sys2Proof.Machine.execEshape d s
  | .wEinca d => Sys2Proof.Machine.execEinca d s
  | .wEincb d => Sys2Proof.Machine.execEincb d s
  | .wEoct octA octB => Sys2Proof.Machine.execEoct octA octB s
  | .wRsvd32To63 a d => Sys2Proof.Machine.execRsvd32To63 a d s
  | .wRsvd64To127 a d => Sys2Proof.Machine.execRsvd64To127 a d s

end Sys2Proof.Machine
end

