-- ==== Sys2Proof/Machine/Update.lean ====
section
/-! DEFINITION. The update cycle, run every 512 ticks (R281, R282): tone, noise, envelopes, mixer, delay ring. -/

namespace Sys2Proof.Machine

/-! ### Step 1: tone (spec/44_tone_noise_update.md section 1) -/

/-- R210, for every channel. -/
def toneStep (s : State) : State :=
  { s with synth := { s.synth with
      tonePhaseAcc := .ofFn fun i => s.synth.tonePhaseAcc.get i + s.regs.shiftedIncrement.get i } }

/-- R211: the tone bits of the update cycle, from the accumulators `toneStep` left (R42). -/
def toneBits (s : State) : PerChan Bool :=
  .ofFn fun i => toneBit (s.synth.tonePhaseAcc.get i) (s.regs.dutyCycle.get i)

/-! ### Step 2: noise (section 2) -/

/-- R215: the register after an advance; the tap is XORed in when the feedback bit is 0. -/
def lfsrNext (lfsr tap : Half) : Half := if lfsr.getLsbD 0 then lfsr >>> 1 else (lfsr >>> 1) ^^^ tap

/-- R215, R216: `LfsrAdvance()`. -/
def lfsrAdvance (s : State) : State :=
  { s with synth := { s.synth with
      noiseLFSR := lfsrNext s.synth.noiseLFSR s.regs.noiseXorTap
      noiseMask := noiseMaskOf (s.synth.noiseLFSR.getLsbD 0) } }

/-- The accumulation of R214. -/
def noiseAccumulate (s : State) : State :=
  { s with synth := { s.synth with noisePhaseAcc := s.synth.noisePhaseAcc + s.regs.noiseShiftedIncrement } }

/-- R214: accumulate, then advance the LFSR if the addition wrapped. -/
def noiseStep (s : State) : State :=
  let t := noiseAccumulate s
  if noiseWrapped t.synth.noisePhaseAcc t.regs.noiseShiftedIncrement then lfsrAdvance t else t

/-! ### Step 3: envelopes (spec/45_envelope_update.md) -/

/-- R231: the amount added per update cycle. -/
def envStep (g : Gen) (s : State) : BitVec 32 :=
  (s.regs.envShiftedIncrement.get g).setWidth 32 <<< (if envHighOctave (s.regs.envOctave.get g) then 8 else 0)

/-- R232: the widened sum. -/
def envScratch (g : Gen) (s : State) : BitVec 32 := (s.synth.envPhaseAcc.get g).setWidth 32 + envStep g s

/-- R232: bits 23:16 of the sum. -/
def envCarry (g : Gen) (s : State) : Byte := (envScratch g s).extractLsb' 16 8

/-- R232: the new phase accumulator. -/
def envNextPhase (g : Gen) (s : State) : Half := (envScratch g s).extractLsb' 0 16

/-- R233: the state after the carry is added. -/
def envNextState (g : Gen) (s : State) : Byte := s.synth.envState.get g + envCarry g s

/-- R233, R235: the update is a half-cycle boundary. -/
def envBoundary (g : Gen) (s : State) : Bool := envOverflow (envNextState g s) (envCarry g s)

/-- R235: the slope flag, toggled at a boundary of an alternating shape. -/
def envNextSlope (g : Gen) (s : State) : Bool :=
  if envBoundary g s && altBit g s.regs.envShape then !s.synth.envSlope.get g else s.synth.envSlope.get g

/-- R235: a boundary of a holding shape halts the generator. -/
def envHolds (g : Gen) (s : State) : Bool := envBoundary g s && holdBit g s.regs.envShape

/-- R234, R235: the loaded value `v` before the inversion. -/
def envLoaded (g : Gen) (s : State) : Byte := if envHolds g s then 0xFF else envNextState g s

/-- R234, R236: the output. Without a carry it keeps its value; a clear slope complements a loaded value. -/
def envNextVolume (g : Gen) (s : State) : Byte :=
  if envCarry g s = 0 then s.synth.envSmpVolume.get g
  else if envNextSlope g s then envLoaded g s else ~~~(envLoaded g s)

/-- R237 with the halt test of R230. -/
def envUpdate (g : Gen) (s : State) : State :=
  if s.synth.envHalted.get g then s
  else { s with synth := { s.synth with
      envPhaseAcc := s.synth.envPhaseAcc.set g (envNextPhase g s)
      envState := s.synth.envState.set g (envNextState g s)
      envSmpVolume := s.synth.envSmpVolume.set g (envNextVolume g s)
      envSlope := s.synth.envSlope.set g (envNextSlope g s)
      envHalted := s.synth.envHalted.set g (envHolds g s) } }

/-! ### Step 4: per-channel mixing (spec/46_mixer_output.md section 1) -/

/-- R250, R251: the active gate of channel `i`, given its tone bit. -/
def chanActive (tone : Bool) (i : Chan) (s : State) : Bool :=
  tone || (noiseEn (s.regs.channelConfig.get i) && s.synth.noiseMask != 0)

/-- R253: the envelope level, halved if bit 7 of the static volume is clear. -/
def envLevel (i : Chan) (s : State) : Byte :=
  let e := s.synth.envSmpVolume.get (envSel (s.regs.channelConfig.get i))
  if fullEnvelope (s.regs.staticVolume.get i) then e else e >>> 1

/-- R252, R253: the level of channel `i`. -/
def chanLevel (i : Chan) (s : State) : Byte :=
  if envEn (s.regs.channelConfig.get i) then envLevel i s else s.regs.staticVolume.get i

/-- R254: the output of channel `i`. -/
def chanSample (tone : Bool) (i : Chan) (s : State) : Nat :=
  if chanActive tone i s then (chanLevel i s).toNat * panMult s.params (s.regs.channelConfig.get i) else 0

/-- R250 to R254, for every channel. -/
def mixChannels (bits : PerChan Bool) (s : State) : State :=
  { s with out := { s.out with channelOutput := .ofFn fun i => chanSample (bits.get i) i s } }

/-! ### Step 5: sum, scale and delay (section 2) -/

/-- R255: a channel's term of the sum. -/
def audible (s : State) (i : Chan) : Nat := if s.settings.mute.get i then 0 else s.out.channelOutput.get i

/-- R255: the sum with mute. -/
def mixSum (s : State) : Nat := (Chan.all.map (audible s)).sum

/-- R256, R257: the shift, clamped to 0..20. -/
def mixShift (s : State) : Nat := min 20 (s.params.mixShiftBase - s.settings.outputBitdepth)

/-- R256: the mixed sample. -/
def mixedSample (s : State) : Nat := (mixSum s * s.params.mixScale) >>> mixShift s

/-- R258: the slots ahead at which a sample is pushed, for a latency of `outputDelay` ticks. -/
def delaySlots (outputDelay : Nat) : Nat := (511 + outputDelay) >>> 9

/-- R258: the update latency in ticks. Either latency the source names, 256 or 512, gives one slot (log entry 18). -/
def outputDelay : Nat := 512

/-- The update period a tick lies in: `clockCycle >> 9` (R258, R259). -/
def period (s : State) : Nat := s.clockCycle.toNat >>> 9

/-- R258: push the mixed sample. -/
def pushDelay (s : State) : State :=
  { s with out := { s.out with
      delayRing := s.out.delayRing.set (period s + delaySlots outputDelay) (mixedSample s) } }

/-- R282: `UpdateCycle()`. -/
def updateCycle (s : State) : State :=
  let toned := toneStep s
  let enveloped := envUpdate .B (envUpdate .A (noiseStep toned))
  pushDelay (mixChannels (toneBits toned) enveloped)

end Sys2Proof.Machine
end

