-- ==== Sys2Proof/Machine/Output.lean ====
section
/-! DEFINITION. The PWM stage of every tick (spec/46_mixer_output.md section 3) and the rescaled results (R292, R293). -/

namespace Sys2Proof.Machine

/-- R259: the delayed sample. -/
def delayed (s : State) : Nat := s.out.delayRing.get (period s)

/-- R261: the high level of the exact output. -/
def pwmHigh (s : State) : Nat := 2 ^ s.settings.outputBitdepth - 1

/-- R261: the exact output: 0 while the clock's low byte is above the sample, else the high level (log entry 8). -/
def pwmExact (s : State) : Nat := if delayed s < s.clockCycle.toNat % 256 then 0 else pwmHigh s

/-- R260, R261: the output of a tick. -/
def pwmOutput (s : State) : Nat :=
  match s.settings.outputType with
  | .approx => delayed s
  | .exact => pwmExact s

/-- Step 3 of R280. -/
def pwmStage (s : State) : State := { s with out := { s.out with currentOutput := pwmOutput s } }

/-- R292: a raw result in the unsigned range of `n` bits, from a bit depth of `bd`. A raw result of `2^bd` or more is
reduced modulo `2^n` at every bit depth (log entry 9). -/
def rescaleUnsigned (n bd r : Nat) : Nat := (if bd ≤ n then r <<< (n - bd) else r >>> (bd - n)) % 2 ^ n

/-- R293: a raw result in the signed range of `n` bits (log entry 9). -/
def rescaleSigned (n bd r : Nat) : Int := (rescaleUnsigned n bd r : Int) - 2 ^ (n - 1)

end Sys2Proof.Machine
end

