-- ==== Sys2Proof/Machine/Tick.lean ====
section
/-! DEFINITION. One tick of the chip's input clock (R280). -/

namespace Sys2Proof.Machine

/-- R281: the update cycle runs on the ticks whose clock is a multiple of 512. -/
def updateDue (s : State) : Bool := s.clockCycle.toNat % 512 == 0

/-- Step 2 of R280. -/
def updateIfDue (s : State) : State := if updateDue s then updateCycle s else s

/-- Step 4 of R280: record the output if quality is 1. -/
def recordOutput (s : State) : State :=
  match s.settings.quality with
  | .nearest => s
  | .mean => { s with recorded := s.recorded ++ [s.out.currentOutput] }

/-- Step 5 of R280: the clock wraps at 2^32. -/
def advanceClock (s : State) : State := { s with clockCycle := s.clockCycle + 1 }

/-- Steps 2 to 5 of R280, which follow the drain. -/
def finishTick (s : State) : State := advanceClock (recordOutput (pwmStage (updateIfDue s)))

/-- The instruction a queue entry stands for (R113). -/
def WriteCmd.instr (c : WriteCmd) : Instr := decodeWord c.word

/-- Step 1 of R280, R112: take the oldest entry, if there is one, and apply it. -/
def drain (s : State) : Host.Outcome State Fault Refusal :=
  match popWrite s with
  | none => .next s
  | some (c, t) => exec (WriteCmd.instr c) t

/-- `Tick()` (R280). -/
def tick (s : State) : Host.Outcome State Fault Refusal :=
  match drain s with
  | .next t => .next (finishTick t)
  | .fault f => .fault f
  | .refused r => .refused r

end Sys2Proof.Machine
end

