-- ==== Sys2Proof/Machine/Step.lean ====
section
/-! DEFINITION. The machine's step: one tick (R280). The next instruction is the head of the write queue. -/

namespace Sys2Proof.Machine

/-- One step: one tick (log entry 10). -/
def step (s : State) : Host.Outcome State Fault Refusal := tick s

/-- `s` with the instruction of an opcode-table word at the head of the write queue, where the next tick takes it. A
word whose address is above 127 fits no queue entry and leaves `s` (log entry 12). -/
def State.withFetchWord (s : State) (nbits w : Nat) : State :=
  match tableCmd nbits w with
  | some c => placeWrite c s
  | none => s

end Sys2Proof.Machine
end

