-- ==== Sys2Proof/Machine/Calls.lean ====
section
/-! DEFINITION. The host's calls and their results as data (R295), the instances behind handles (R321, R334), and the
lines of the spec's script notation (R105). -/

namespace Sys2Proof.Machine

/-- The widths of the rescaled results (R292). -/
inductive SampleWidth where
  | w16
  | w32
  deriving DecidableEq, Repr

/-- `N` of R292. -/
def SampleWidth.bits : SampleWidth → Nat
  | .w16 => 16
  | .w32 => 32

/-- The calls on a live instance (R295). Numbers are the host's, checked at the interface (R314). -/
inductive HostCall where
  /-- R330 -/
  | reset
  /-- R289, with the outcome of the scratch buffer's allocation (R297) -/
  | setClockAndRate (clockHz sampleRateHz : Nat) (alloc : Bool)
  /-- R290, with the numbers of R104 -/
  | setOutputType (type : Nat)
  /-- R291 -/
  | setQuality (level : Nat)
  /-- R294 -/
  | setMute (channelIndex : Nat) (flag : Bool)
  /-- R110 -/
  | enqueueWrite (address data : Nat)
  /-- R111 -/
  | hasPendingWrites
  /-- R283 to R286 -/
  | produceSample
  /-- R292 -/
  | produceSampleU (width : SampleWidth)
  /-- R293 -/
  | produceSampleS (width : SampleWidth)
  deriving DecidableEq, Repr

/-- What a call returns (R295). -/
inductive CallResult where
  /-- no value -/
  | none
  /-- the recoverable warning of R289, an event with no content (R311, log entry 15) -/
  | warning
  /-- hasPendingWrites -/
  | pending (b : Bool)
  /-- rawValue, or an unsigned rescaled value -/
  | sample (v : Nat)
  /-- a signed rescaled value -/
  | signedSample (v : Int)
  /-- create succeeded -/
  | handle (h : Nat)
  /-- create failed (R311) -/
  | allocationError
  deriving DecidableEq, Repr

/-- The live instances, each under its handle (R321). Plain data, outside any one instance (log entry 16). -/
structure World where
  live : List (Nat × State)
  nextHandle : Nat
  deriving DecidableEq, Repr

/-- The lines of R105. The `alloc` of RATE is its draw (R297). -/
inductive ScriptLine where
  | W (a d : Nat)
  | S
  | Sn (n : Nat)
  | RESET
  | MUTE (i : Nat) (b : Bool)
  | QUAL (q : Nat)
  | TYPE (t : Nat)
  | RATE (c r : Nat) (alloc : Bool)
  | P
  | W16 (a v : Nat)
  | DRAIN
  deriving DecidableEq, Repr

end Sys2Proof.Machine
end

