-- ==== Sys2Proof/Machine/HostInterface.lean ====
section
/-! DEFINITION. The host interface: the write-queue calls (spec/40_write_queue.md), the sample-rate converter and the
configuration calls (spec/47_scheduler_src.md), and create, reset and destroy (spec/70_reset_and_hazards.md). -/

namespace Sys2Proof.Machine

/-! ### Write queue -/

/-- R110, with the refusals of R314. -/
def enqueueWrite (address data : Nat) (s : State) : Host.Outcome State Fault Refusal :=
  if 127 < address then .refused .addressAbove127
  else if 255 < data then .refused .dataAbove255
  else .next (pushWrite ⟨BitVec.ofNat 7 address, BitVec.ofNat 8 data⟩ s)

/-- R111. -/
def hasPendingWrites (s : State) : Bool := decide (0 < s.writeQueue.length)

/-! ### Sample-rate converter -/

/-- R283: the ticks the next produceSample runs. -/
def ticksDue (s : State) : Nat := (s.tickAccumulator + s.settings.ticksPerOutputSample).floor.toNat

/-- R284: run `n` ticks. -/
def runTicks : Nat → State → Host.Outcome State Fault Refusal
  | 0, s => .next s
  | n + 1, s =>
    match step s with
    | .next t => runTicks n t
    | .fault f => .fault f
    | .refused r => .refused r

/-- R283: the accumulation, with an empty record (R284). -/
def beginSample (s : State) : State :=
  { s with tickAccumulator := s.tickAccumulator + s.settings.ticksPerOutputSample, recorded := [] }

/-- R285: the integer part leaves the accumulator; the record is no state between calls (R50). -/
def endSample (n : Nat) (s : State) : State := { s with tickAccumulator := s.tickAccumulator - (n : Rat), recorded := [] }

/-- R286, R287: the value of a call that ran `n` ticks. -/
def sampleValue (n : Nat) (s : State) : Nat :=
  match s.settings.quality with
  | .nearest => s.out.currentOutput
  | .mean => if n = 0 then s.out.currentOutput else s.recorded.sum / n

/-- R283 to R287: `produceSample()`. -/
def produceSample (s : State) : Host.Outcome (State × Nat) Fault Refusal :=
  match runTicks (ticksDue s) (beginSample s) with
  | .next t => .next (endSample (ticksDue s) t, sampleValue (ticksDue s) t)
  | .fault f => .fault f
  | .refused r => .refused r

/-- R292, R298: one produceSample call, its result rescaled. -/
def produceSampleU (width : SampleWidth) (s : State) : Host.Outcome (State × Nat) Fault Refusal :=
  match produceSample s with
  | .next (t, r) => .next (t, rescaleUnsigned width.bits s.settings.outputBitdepth r)
  | .fault f => .fault f
  | .refused r => .refused r

/-- R293, R298: one produceSample call, its result rescaled and offset. -/
def produceSampleS (width : SampleWidth) (s : State) : Host.Outcome (State × Int) Fault Refusal :=
  match produceSample s with
  | .next (t, r) => .next (t, rescaleSigned width.bits s.settings.outputBitdepth r)
  | .fault f => .fault f
  | .refused r => .refused r

/-! ### Configuration calls -/

/-- The state change of R289, given the draw of R297. -/
def retime (clockHz sampleRateHz : Nat) (alloc : Bool) (s : State) : State :=
  { s with settings := { s.settings with
      clockHz := clockHz
      sampleRateHz := sampleRateHz
      ticksPerOutputSample := tickRatio clockHz sampleRateHz
      scratchAvailable := alloc
      quality := if alloc then s.settings.quality else .nearest } }

/-- R289, with the refusals of R314. -/
def setClockAndRate (clockHz sampleRateHz : Nat) (alloc : Bool) (s : State) : Host.Outcome State Fault Refusal :=
  if clockHz = 0 then .refused .zeroClock
  else if sampleRateHz = 0 then .refused .zeroSampleRate
  else .next (retime clockHz sampleRateHz alloc s)

/-- R104: the output type a number names. -/
def outputTypeOf : Nat → Option OutputType
  | 0 => some .approx
  | 1 => some .exact
  | _ => none

/-- R290, with the refusal of R314. -/
def setOutputType (type : Nat) (s : State) : Host.Outcome State Fault Refusal :=
  match outputTypeOf type with
  | some t => .next { s with settings := { s.settings with outputType := t } }
  | none => .refused .unknownOutputType

/-- R291: every level of 1 or more is 1, and without a scratch buffer quality stays 0. -/
def setQuality (level : Nat) (s : State) : State :=
  { s with settings := { s.settings with
      quality := if level = 0 || !s.settings.scratchAvailable then .nearest else .mean } }

/-- R294: an index above 4 changes nothing. -/
def setMute (channelIndex : Nat) (flag : Bool) (s : State) : State :=
  match Chan.ofNat? channelIndex with
  | some i => { s with settings := { s.settings with mute := s.settings.mute.set i flag } }
  | none => s

/-! ### Lifecycle -/

/-- R330, R331: `reset()`. The queue, the settings and the parameters stay. -/
def resetCall (s : State) : State :=
  { s with
    clockCycle := 0
    regs := .reset
    synth := .reset
    out := .reset
    tickAccumulator := 0 }

/-- A call on one live instance (R295). -/
def hostCall (c : HostCall) (s : State) : Host.Outcome (State × CallResult) Fault Refusal :=
  let done (o : Host.Outcome State Fault Refusal) (r : CallResult) : Host.Outcome (State × CallResult) Fault Refusal :=
    match o with
    | .next t => .next (t, r)
    | .fault f => .fault f
    | .refused e => .refused e
  match c with
  | .reset => .next (resetCall s, .none)
  | .setClockAndRate c r alloc => done (setClockAndRate c r alloc s) (if alloc then .none else .warning)
  | .setOutputType t => done (setOutputType t s) .none
  | .setQuality l => .next (setQuality l s, .none)
  | .setMute i b => .next (setMute i b s, .none)
  | .enqueueWrite a d => done (enqueueWrite a d s) .none
  | .hasPendingWrites => .next (s, .pending (hasPendingWrites s))
  | .produceSample =>
    match produceSample s with
    | .next (t, v) => .next (t, .sample v)
    | .fault f => .fault f
    | .refused e => .refused e
  | .produceSampleU w =>
    match produceSampleU w s with
    | .next (t, v) => .next (t, .sample v)
    | .fault f => .fault f
    | .refused e => .refused e
  | .produceSampleS w =>
    match produceSampleS w s with
    | .next (t, v) => .next (t, .signedSample v)
    | .fault f => .fault f
    | .refused e => .refused e

/-! ### Instances and handles (log entry 16) -/

/-- No instance yet. -/
def World.empty : World := ⟨[], 0⟩

/-- The instance a handle names. -/
def World.find (w : World) (h : Nat) : Option State := w.live.lookup h

/-- The world with one instance's state replaced. -/
def World.store (w : World) (h : Nat) (s : State) : World :=
  { w with live := w.live.map fun e => if e.1 = h then (h, s) else e }

/-- R333, with the refusals of R314 and the two draws of R297: the instance, then its scratch buffer. -/
def World.create (args : CreateArgs) (allocInstance allocScratch : Bool) (w : World) :
    Host.Outcome (World × CallResult) Fault Refusal :=
  if args.clockHz = 0 then .refused .zeroClock
  else if args.sampleRateHz = 0 then .refused .zeroSampleRate
  else if args.outputBitdepth < 1 ∨ 32 < args.outputBitdepth then .refused .bitdepthOutOfRange
  else if allocInstance then
    .next ({ live := w.live ++ [(w.nextHandle, State.created args allocScratch)], nextHandle := w.nextHandle + 1 },
      .handle w.nextHandle)
  else .next (w, .allocationError)

/-- R334: `destroy()`. -/
def World.destroy (h : Nat) (w : World) : Host.Outcome (World × CallResult) Fault Refusal :=
  match w.find h with
  | some _ => .next ({ w with live := w.live.filter fun e => e.1 != h }, .none)
  | none => .refused .deadHandle

/-- R295, R321, R334: a call on the instance a handle names. -/
def World.call (h : Nat) (c : HostCall) (w : World) : Host.Outcome (World × CallResult) Fault Refusal :=
  match w.find h with
  | none => .refused .deadHandle
  | some s =>
    match hostCall c s with
    | .next (t, r) => .next (w.store h t, r)
    | .fault f => .fault f
    | .refused e => .refused e

end Sys2Proof.Machine
end

