-- ==== Sys2Proof/Machine/Script.lean ====
section
/-! DEFINITION. The script notation of R105: each line as the host calls it stands for. -/

namespace Sys2Proof.Machine

/-- Run calls in order on one instance, with their results. -/
def runCalls : List HostCall → State → Host.Outcome (State × List CallResult) Fault Refusal
  | [], s => .next (s, [])
  | c :: cs, s =>
    match hostCall c s with
    | .fault f => .fault f
    | .refused e => .refused e
    | .next (t, r) =>
      match runCalls cs t with
      | .next (u, rs) => .next (u, r :: rs)
      | .fault f => .fault f
      | .refused e => .refused e

/-- `S` repeated until `P?` is false, at most `fuel` times (R105, DRAIN). -/
def drainSamples : Nat → State → Host.Outcome (State × List CallResult) Fault Refusal
  | 0, s => .next (s, [])
  | n + 1, s =>
    if hasPendingWrites s then
      match hostCall .produceSample s with
      | .fault f => .fault f
      | .refused e => .refused e
      | .next (t, r) =>
        match drainSamples n t with
        | .next (u, rs) => .next (u, r :: rs)
        | .fault f => .fault f
        | .refused e => .refused e
    else .next (s, [])

/-- Samples that suffice to empty the queue: so many that they run at least one tick for each entry (log entry 17). -/
def drainBound (s : State) : Nat := ((s.writeQueue.length : Rat) / s.settings.ticksPerOutputSample).ceil.toNat

/-- The calls of a line other than DRAIN (R105). -/
def ScriptLine.calls : ScriptLine → List HostCall
  | .W a d => [.enqueueWrite a d]
  | .S => [.produceSample]
  | .Sn n => List.replicate n .produceSample
  | .RESET => [.reset]
  | .MUTE i b => [.setMute i b]
  | .QUAL q => [.setQuality q]
  | .TYPE t => [.setOutputType t]
  | .RATE c r alloc => [.setClockAndRate c r alloc]
  | .P => [.hasPendingWrites]
  | .W16 a v => [.enqueueWrite a (v % 256), .enqueueWrite (a + 1) (v / 256 % 256)]
  | .DRAIN => []

/-- R105: W16 is legal at the two 16-bit registers only. -/
def ScriptLine.legal : ScriptLine → Bool
  | .W16 a _ => a == 14 || a == 26
  | .W _ _ | .S | .Sn _ | .RESET | .MUTE _ _ | .QUAL _ | .TYPE _ | .RATE _ _ _ | .P | .DRAIN => true

/-- One line of a script. -/
def ScriptLine.run (l : ScriptLine) (s : State) : Host.Outcome (State × List CallResult) Fault Refusal :=
  if l.legal then
    match l with
    | .DRAIN => drainSamples (drainBound s) s
    | l => runCalls l.calls s
  else .refused .illegalW16

/-- A script, with the results of all its calls in order. -/
def runScript : List ScriptLine → State → Host.Outcome (State × List CallResult) Fault Refusal
  | [], s => .next (s, [])
  | l :: ls, s =>
    match l.run s with
    | .fault f => .fault f
    | .refused e => .refused e
    | .next (t, rs) =>
      match runScript ls t with
      | .next (u, qs) => .next (u, rs ++ qs)
      | .fault f => .fault f
      | .refused e => .refused e

end Sys2Proof.Machine
end

