-- ==== Sys2Proof/Safety.lean ====
section
/-! DEFINITION. What counts as a sound state, and the words the statements use: the invariants the spec lists (R55) with
the bounds its state rules give, the families of register writes by channel or generator, and runs of ticks and samples. -/

namespace Sys2Proof.Machine

/-! ### Invariants -/

/-- R256: the constraint on the parameters that keeps a mixed sample below 2^32. Five channels of at most 255 each
give the factor 1275; under the default `PAN_MULT` the constraint is `5100 * MIX_SCALE < 2^32`. -/
def ParamsSound (p : Params) : Prop := ∀ c : Byte, 1275 * panMult p c * p.mixScale < 2 ^ 32

/-- What holds of a state at every point, also between the ticks of one produceSample call. -/
structure Inv (s : State) : Prop where
  /-- R25, R55 -/
  toneSteps : ∀ i, (s.regs.shiftedIncrement.get i).toNat =
    (s.regs.toneIncrement.get i).toNat * 2 ^ (1 + (s.regs.toneOctave.get i).toNat)
  /-- R29, R55 -/
  noiseSteps : s.regs.noiseShiftedIncrement.toNat = s.regs.noiseIncrement.toNat * 2 ^ (1 + s.regs.noiseOctave.toNat)
  /-- R33, R55 -/
  envSteps : ∀ g, (s.regs.envShiftedIncrement.get g).toNat =
    (s.regs.envIncrement.get g).toNat * 2 ^ (1 + (s.regs.envOctave.get g).toNat % 8)
  /-- R37 -/
  noiseMaskLegal : s.synth.noiseMask = 0x00 ∨ s.synth.noiseMask = 0xFF
  /-- R43 -/
  channelBounded : ∀ i, ∃ c, s.out.channelOutput.get i ≤ 255 * panMult s.params c
  /-- R44 -/
  ringBounded : s.out.delayRing.slot0 < 2 ^ 32 ∧ s.out.delayRing.slot1 < 2 ^ 32
  /-- R45 -/
  currentBounded : s.out.currentOutput < 2 ^ 32
  /-- R46, R55 -/
  queueBounded : s.writeQueue.length ≤ s.settings.writeQueueCapacity
  /-- R48 -/
  accumulatorNonneg : 0 ≤ s.tickAccumulator
  /-- R47 -/
  ratioExact : s.settings.ticksPerOutputSample = (s.settings.clockHz : Rat) / (s.settings.sampleRateHz : Rat)
  /-- R54 -/
  ratesPositive : 0 < s.settings.clockHz ∧ 0 < s.settings.sampleRateHz
  /-- R50, R55 -/
  qualityNeedsScratch : s.settings.scratchAvailable = false → s.settings.quality = .nearest
  /-- R52 -/
  bitdepthLegal : 1 ≤ s.settings.outputBitdepth ∧ s.settings.outputBitdepth ≤ 32
  /-- R256 -/
  paramsSound : ParamsSound s.params

/-- What holds in addition between host calls. -/
structure Idle (s : State) : Prop where
  inv : Inv s
  /-- R48, R285 -/
  accumulatorBelowOne : s.tickAccumulator < 1
  /-- R50: the buffer's contents are no state between calls. -/
  recordEmpty : s.recorded = []

/-- Arguments `create` accepts (R314), with sound parameters. -/
structure ArgsSound (a : CreateArgs) : Prop where
  clock : 0 < a.clockHz
  rate : 0 < a.sampleRateHz
  bitdepth : 1 ≤ a.outputBitdepth ∧ a.outputBitdepth ≤ 32
  params : ParamsSound a.params

/-- R335's condition as a state: no static volume and no envelope is at a channel's output, the ring holds zeros, and
no queued write reaches a static volume or a channel config (addresses 16 to 25). -/
structure Silent (s : State) : Prop where
  inv : Inv s
  /-- R252 -/
  volumesZero : ∀ i, s.regs.staticVolume.get i = 0
  /-- R98, R253: `ENV_EN` is clear. -/
  envelopesOff : ∀ i, (s.regs.channelConfig.get i).getLsbD 6 = false
  /-- R336 -/
  ringZero : s.out.delayRing = ⟨0, 0⟩
  /-- R93: addresses 16 to 20 are the static volumes, 21 to 25 the channel configs. -/
  queueQuiet : ∀ c ∈ s.writeQueue, c.addr.toNat < 16 ∨ 25 < c.addr.toNat

/-- A run that starts between host calls is safe when every state between calls is `Idle`; no call faults. -/
def SafeRun (cs : List HostCall) (s : State) : Prop :=
  Idle s ∧ ∀ t rs, runCalls cs s = .next (t, rs) → Idle t

/-! ### Register writes by channel and generator -/

/-- A channel's number. -/
def Chan.index : Chan → Nat
  | .c0 => 0
  | .c1 => 1
  | .c2 => 2
  | .c3 => 3
  | .c4 => 4

/-- W_TINC0 to W_TINC4. -/
def tincInstr : Chan → Byte → Instr
  | .c0 => .wTinc0
  | .c1 => .wTinc1
  | .c2 => .wTinc2
  | .c3 => .wTinc3
  | .c4 => .wTinc4

/-- W_DUTY0 to W_DUTY4. -/
def dutyInstr : Chan → Byte → Instr
  | .c0 => .wDuty0
  | .c1 => .wDuty1
  | .c2 => .wDuty2
  | .c3 => .wDuty3
  | .c4 => .wDuty4

/-- W_VOL0 to W_VOL4. -/
def volInstr : Chan → Byte → Instr
  | .c0 => .wVol0
  | .c1 => .wVol1
  | .c2 => .wVol2
  | .c3 => .wVol3
  | .c4 => .wVol4

/-- W_CFG0 to W_CFG4. -/
def cfgInstr : Chan → Byte → Instr
  | .c0 => .wCfg0
  | .c1 => .wCfg1
  | .c2 => .wCfg2
  | .c3 => .wCfg3
  | .c4 => .wCfg4

/-- W_EINCA and W_EINCB. -/
def eincInstr : Gen → Byte → Instr
  | .A => .wEinca
  | .B => .wEincb

/-- A tone channel's nibble of an octave register has been applied between `s` and `t` (R136): the octave and its step,
recomputed only on a change, and the accumulator, zeroed by the strobe. -/
def ToneNibbleApplied (i : Chan) (o : BitVec 3) (rst : Bool) (s t : State) : Prop :=
  t.regs.toneOctave.get i = o ∧
  (o = s.regs.toneOctave.get i → t.regs.shiftedIncrement.get i = s.regs.shiftedIncrement.get i) ∧
  (o ≠ s.regs.toneOctave.get i →
    (t.regs.shiftedIncrement.get i).toNat = (s.regs.toneIncrement.get i).toNat * 2 ^ (1 + o.toNat)) ∧
  t.synth.tonePhaseAcc.get i = if rst then 0 else s.synth.tonePhaseAcc.get i

/-- A tone channel's octave, step and accumulator are the same in `s` and `t`. -/
def ToneNibbleSame (i : Chan) (s t : State) : Prop :=
  t.regs.toneOctave.get i = s.regs.toneOctave.get i ∧
  t.regs.shiftedIncrement.get i = s.regs.shiftedIncrement.get i ∧
  t.synth.tonePhaseAcc.get i = s.synth.tonePhaseAcc.get i

/-- Generator `g` is the same in `s` and `t`. -/
def EnvSame (g : Gen) (s t : State) : Prop :=
  t.synth.envPhaseAcc.get g = s.synth.envPhaseAcc.get g ∧ t.synth.envState.get g = s.synth.envState.get g ∧
  t.synth.envSmpVolume.get g = s.synth.envSmpVolume.get g ∧ t.synth.envSlope.get g = s.synth.envSlope.get g ∧
  t.synth.envHalted.get g = s.synth.envHalted.get g

/-! ### Envelopes -/

/-- R99: the lowest bit of a generator's nibble, written out from the rule. -/
def genNibble : Gen → Nat
  | .A => 0
  | .B => 4

/-- R195, R239: the 24-bit counter `envState : envPhaseAcc`. -/
def envCounter (g : Gen) (s : State) : Nat :=
  (s.synth.envState.get g).toNat * 2 ^ 16 + (s.synth.envPhaseAcc.get g).toNat

/-- R231: the amount added per update cycle, as a number. -/
def envAmount (g : Gen) (s : State) : Nat :=
  (s.regs.envShiftedIncrement.get g).toNat * 2 ^ (if (s.regs.envOctave.get g).getLsbD 3 then 8 else 0)

/-! ### Runs -/

/-- The outputs of the next `n` ticks, oldest first. -/
def tickOutputs : Nat → State → List Nat
  | 0, _ => []
  | n + 1, s =>
    match step s with
    | .next t => t.out.currentOutput :: tickOutputs n t
    | .fault _ => []
    | .refused _ => []

/-- `k` calls of produceSample, the samples left aside. -/
def runSamples : Nat → State → Host.Outcome State Fault Refusal
  | 0, s => .next s
  | k + 1, s =>
    match produceSample s with
    | .next (t, _) => runSamples k t
    | .fault f => .fault f
    | .refused r => .refused r

end Sys2Proof.Machine
end

