-- ==== Sys2Proof/Certificates/Slice0/Obligations.lean ====
section
/-! DEFINITION. The statements for the provers. Each docstring names the rule of spec/ it formalises; where a clause
rests on one of the spec's own decisions D<k> of spec/92_eei_decisions.md, the docstring says so and names the log entry. -/

open Sys2Proof Sys2Proof.Machine

/-! ### Encoding -/

/-- R91: decoding is by address alone and total; every 15-bit word is the word of exactly one instruction. -/
def Obligations.EveryWordDecodesToOneInstruction : Prop :=
  ∀ w : CmdWord,
    decode w.toNat = .ok (decodeWord w) ∧ (decodeWord w).wf = true ∧ (decodeWord w).address = wordAddr w ∧
    encode (decodeWord w) = w ∧ ∀ i : Instr, i.wf = true → encode i = w → i = decodeWord w

/-- Decode and encode agree on every well-formed instruction, as a word, as a table word and as an (address, data) pair.
The layouts are the spec's decisions D4, D7, D10, D15 and the word packing its D37 (log entries 5 and 12). -/
def Obligations.DecodeInvertsEncode : Prop :=
  ∀ i : Instr, i.wf = true →
    decode (encode i).toNat = .ok i ∧ decodeTableWord 15 (encode i).toNat = some i ∧
    decodePair i.address.toNat i.dataByte.toNat = .ok i

/-- R314's first item (the spec's decision D29, log entry 12): an address above 127 or data above 255 is no write
command, and every other pair is one. -/
def Obligations.NumbersOutsideTheInterfaceAreRejected : Prop :=
  (∀ w : Nat, 2 ^ 15 ≤ w → decode w = .error .addressAbove127) ∧
  (∀ a d : Nat, 127 < a → decodePair a d = .error .addressAbove127) ∧
  (∀ a d : Nat, a ≤ 127 → 255 < d → decodePair a d = .error .dataAbove255) ∧
  ∀ a d : Nat, a ≤ 127 → d ≤ 255 → ∃ i : Instr, decodePair a d = .ok i ∧ i.address.toNat = a ∧ i.dataByte.toNat = d

/-- Words of spec/95_test_vectors.md, one or more for each family: those of sections 2.1 and 2.2, 0x2812 of section 3's
program P5, and 0x7F00, which packs section 2.1's pair (127, 0x00) as R90 says. The packing is the spec's decision D37
(log entry 12), and the fields of the octave and envelope-octave bytes are its layouts D4 and D15 (log entry 5). -/
def Obligations.SpecWordsDecodeAsListed : Prop :=
  decode 0x0088 = .ok (.wTinc0 0x88) ∧ decode 0x05FF = .ok (.wNinc 0xFF) ∧
  decode 0x060B = .ok (.wOct01 3 true 0 false) ∧ decode 0x07F0 = .ok (.wOct23 0 false 7 true) ∧
  decode 0x0870 = .ok (.wOct4n 0 false 7 false) ∧ decode 0x0940 = .ok (.wDuty0 0x40) ∧
  decode 0x0FB4 = .ok (.wNtaph 0xB4) ∧ decode 0x10FF = .ok (.wVol0 0xFF) ∧ decode 0x1563 = .ok (.wCfg0 0x63) ∧
  decode 0x1A34 = .ok (.wEldl 0x34) ∧ decode 0x1C09 = .ok (.wEshape 0x09) ∧ decode 0x1EFF = .ok (.wEincb 0xFF) ∧
  decode 0x1F09 = .ok (.wEoct 9 0) ∧ decode 0x1FA5 = .ok (.wEoct 5 10) ∧
  decode 0x2812 = .ok (.wRsvd32To63 40 0x12) ∧ decode 0x7F00 = .ok (.wRsvd64To127 127 0)

/-! ### The tick -/

/-- A step runs the decoded instruction: with a well-formed instruction's entry at the head of the queue, the step is
`exec` of it on the state without that entry, then steps 2 to 5 of R280. That one step is one tick is DEDUCED (log
entry 10), and the order within the tick and its update boundary are the spec's decisions D1 and D2 (log entry 13).
The last clause is the model's own and no rule of the spec: `withFetchWord` stands for the host's enqueue and places
such an entry at the head of the queue (log entry 10). -/
def Obligations.StepRunsTheOldestWrite : Prop :=
  ∀ (s : State) (i : Instr), i.wf = true →
    (∀ rest, s.writeQueue = i.cmd :: rest →
      step s = match exec i { s with writeQueue := rest } with
        | .next t => .next (finishTick t)
        | .fault f => .fault f
        | .refused r => .refused r) ∧
    s.withFetchWord 15 (encode i).toNat = { s with writeQueue := i.cmd :: s.writeQueue.tail }

/-- R280 for a tick that drains nothing: the update cycle on multiples of 512, the PWM stage, the record at quality 1,
and the clock modulo 2^32. The order of the actions and the update boundary are the spec's decisions D1 and D2 and the
exact output's levels its D20 (log entries 8 and 13). -/
def Obligations.TickWithoutAWrite : Prop :=
  ∀ s : State, s.writeQueue = [] → ∃ t u : State, step s = .next t ∧
    (s.clockCycle.toNat % 512 = 0 → u = updateCycle s) ∧ (s.clockCycle.toNat % 512 ≠ 0 → u = s) ∧
    t.clockCycle.toNat = (s.clockCycle.toNat + 1) % 2 ^ 32 ∧
    (s.settings.outputType = .approx → t.out.currentOutput = u.out.delayRing.get (s.clockCycle.toNat / 512)) ∧
    (s.settings.outputType = .exact → t.out.currentOutput =
      if s.clockCycle.toNat % 256 > u.out.delayRing.get (s.clockCycle.toNat / 512) then 0
      else 2 ^ s.settings.outputBitdepth - 1) ∧
    (s.settings.quality = .nearest → t.recorded = s.recorded) ∧
    (s.settings.quality = .mean → t.recorded = s.recorded ++ [t.out.currentOutput]) ∧
    t = { u with
          clockCycle := t.clockCycle
          out := { u.out with currentOutput := t.out.currentOutput }
          recorded := t.recorded }

/-- R310: no register write, tick, run of ticks or sample raises an exception, traps or stops, in any state. -/
def Obligations.NothingFaultsOrStops : Prop :=
  (∀ (i : Instr) (s : State), ∃ t, exec i s = .next t) ∧ (∀ s : State, ∃ t, step s = .next t) ∧
  (∀ (n : Nat) (s : State), ∃ t, runTicks n s = .next t) ∧ (∀ s : State, ∃ t v, produceSample s = .next (t, v)) ∧
  IsEmpty Fault

/-- R77: writes take effect in the order they were enqueued, one per tick: the entry with `pre` ahead of it is applied
by the tick after `pre.length` ticks, when every entry before it has left the queue, and has then left it too; and no
write is applied while it is being enqueued. -/
def Obligations.WritesAreAppliedInOrder : Prop :=
  (∀ (s : State) (pre post : List WriteCmd) (c : WriteCmd), s.writeQueue = pre ++ c :: post →
    ∃ u v : State, runTicks pre.length s = .next u ∧ u.writeQueue = c :: post ∧
      exec (decodeWord c.word) { u with writeQueue := post } = .next v ∧ step u = .next (finishTick v) ∧
      v.writeQueue = post ∧ (finishTick v).writeQueue = post) ∧
  ∀ (a d : Nat) (s t : State), enqueueWrite a d s = .next t → t = { s with writeQueue := t.writeQueue }

/-- R115 with R116 (the spec's decision D28 allows every capacity): pushing any writes onto an empty queue keeps the
first `WQ_CAPACITY` of them, and the queue empties after exactly as many ticks as it has entries. -/
def Obligations.CapacityBoundsTheQueue : Prop :=
  (∀ (s : State) (cs : List WriteCmd), s.writeQueue = [] →
    cs.foldl (fun t c => pushWrite c t) s =
      { s with writeQueue := cs.take s.settings.writeQueueCapacity }) ∧
  ∀ (s t : State) (n : Nat), runTicks n s = .next t →
    t.writeQueue = s.writeQueue.drop n ∧ (hasPendingWrites t = true ↔ n < s.writeQueue.length)

/-- R281 (the boundary is the spec's decision D2, log entry 13): off the boundary a tick changes, beyond its drained
write, only the clock, the current output and the record. -/
def Obligations.UpdatesHappenOnlyOnTheBoundary : Prop :=
  ∀ (s u t : State), s.clockCycle.toNat % 512 ≠ 0 → drain s = .next u → step s = .next t →
    t.regs = u.regs ∧ t.synth = u.synth ∧ t.out.channelOutput = s.out.channelOutput ∧
    t.out.delayRing = s.out.delayRing ∧ t.writeQueue = s.writeQueue.tail ∧ t.settings = s.settings ∧
    t.params = s.params ∧ t.tickAccumulator = s.tickAccumulator

/-! ### Register writes: results, completion and frames -/

/-- R130 to R134: the increment store of each tone channel, with its step and its word; nothing else changes. -/
def Obligations.ToneIncrementWrites : Prop :=
  ∀ (i : Chan) (d : Byte) (s : State), ∃ t, exec (tincInstr i d) s = .next t ∧
    t.regs.toneIncrement.get i = d ∧
    (t.regs.shiftedIncrement.get i).toNat = d.toNat * 2 ^ (1 + (s.regs.toneOctave.get i).toNat) ∧
    (∀ j, j ≠ i → t.regs.toneIncrement.get j = s.regs.toneIncrement.get j ∧
      t.regs.shiftedIncrement.get j = s.regs.shiftedIncrement.get j) ∧
    t = { s with regs := { s.regs with
          toneIncrement := t.regs.toneIncrement
          shiftedIncrement := t.regs.shiftedIncrement } } ∧
    (encode (tincInstr i d)).toNat = 256 * i.index + d.toNat

/-- R135: the noise increment store, with its step and its word; the LFSR, the accumulator and all else stay. -/
def Obligations.NoiseIncrementWrite : Prop :=
  ∀ (d : Byte) (s : State), ∃ t, exec (.wNinc d) s = .next t ∧
    t.regs.noiseIncrement = d ∧
    t.regs.noiseShiftedIncrement.toNat = d.toNat * 2 ^ (1 + s.regs.noiseOctave.toNat) ∧
    t = { s with regs := { s.regs with
          noiseIncrement := d
          noiseShiftedIncrement := t.regs.noiseShiftedIncrement } } ∧
    (encode (.wNinc d)).toNat = 0x0500 + d.toNat

/-- R136 and R137 (the pairing and the strobes are the spec's decisions D4 and D6, log entries 5 and 14): each nibble
sets its channel's octave, recomputes the step on a change and zeroes the accumulator on its strobe. -/
def Obligations.ToneOctaveWrites : Prop :=
  ∀ (o p : BitVec 3) (r q : Bool) (s : State),
    (∃ t, exec (.wOct01 o r p q) s = .next t ∧
      ToneNibbleApplied .c0 o r s t ∧ ToneNibbleApplied .c1 p q s t ∧
      ToneNibbleSame .c2 s t ∧ ToneNibbleSame .c3 s t ∧ ToneNibbleSame .c4 s t ∧
      t = { s with
            regs := { s.regs with
              toneOctave := t.regs.toneOctave
              shiftedIncrement := t.regs.shiftedIncrement }
            synth := { s.synth with tonePhaseAcc := t.synth.tonePhaseAcc } }) ∧
    ∃ t, exec (.wOct23 o r p q) s = .next t ∧
      ToneNibbleApplied .c2 o r s t ∧ ToneNibbleApplied .c3 p q s t ∧
      ToneNibbleSame .c0 s t ∧ ToneNibbleSame .c1 s t ∧ ToneNibbleSame .c4 s t ∧
      t = { s with
            regs := { s.regs with
              toneOctave := t.regs.toneOctave
              shiftedIncrement := t.regs.shiftedIncrement }
            synth := { s.synth with tonePhaseAcc := t.synth.tonePhaseAcc } }

/-- R138 (the spec's decisions D4, D5 and D6, log entry 14): the first nibble serves tone channel 4, the second the
noise generator, whose strobe zeroes the accumulator and leaves the LFSR and the mask. -/
def Obligations.OctaveFourAndNoiseWrite : Prop :=
  ∀ (o p : BitVec 3) (r q : Bool) (s : State), ∃ t, exec (.wOct4n o r p q) s = .next t ∧
    ToneNibbleApplied .c4 o r s t ∧
    (∀ i, i ≠ .c4 → ToneNibbleSame i s t) ∧
    t.regs.noiseOctave = p ∧
    (p = s.regs.noiseOctave → t.regs.noiseShiftedIncrement = s.regs.noiseShiftedIncrement) ∧
    (p ≠ s.regs.noiseOctave →
      t.regs.noiseShiftedIncrement.toNat = s.regs.noiseIncrement.toNat * 2 ^ (1 + p.toNat)) ∧
    t.synth.noisePhaseAcc = (if q then 0 else s.synth.noisePhaseAcc) ∧
    t = { s with
          regs := { s.regs with
            toneOctave := t.regs.toneOctave
            shiftedIncrement := t.regs.shiftedIncrement
            noiseOctave := t.regs.noiseOctave
            noiseShiftedIncrement := t.regs.noiseShiftedIncrement }
          synth := { s.synth with
            tonePhaseAcc := t.synth.tonePhaseAcc
            noisePhaseAcc := t.synth.noisePhaseAcc } }

/-- R150 to R154: the duty-cycle store of each tone channel, with its word; nothing else changes. -/
def Obligations.DutyCycleWrites : Prop :=
  ∀ (i : Chan) (d : Byte) (s : State), ∃ t, exec (dutyInstr i d) s = .next t ∧
    t.regs.dutyCycle.get i = d ∧ (∀ j, j ≠ i → t.regs.dutyCycle.get j = s.regs.dutyCycle.get j) ∧
    t = { s with regs := { s.regs with dutyCycle := t.regs.dutyCycle } } ∧
    (encode (dutyInstr i d)).toNat = 256 * (9 + i.index) + d.toNat

/-- R155 and R156: each byte of the noise tap is replaced alone; the LFSR and all else stay. -/
def Obligations.NoiseTapWrites : Prop :=
  ∀ (d : Byte) (s : State),
    (∃ t, exec (.wNtapl d) s = .next t ∧
      t.regs.noiseXorTap.toNat = s.regs.noiseXorTap.toNat / 256 * 256 + d.toNat ∧
      t = { s with regs := { s.regs with noiseXorTap := t.regs.noiseXorTap } } ∧
      (encode (.wNtapl d)).toNat = 0x0E00 + d.toNat) ∧
    ∃ t, exec (.wNtaph d) s = .next t ∧
      t.regs.noiseXorTap.toNat = d.toNat * 256 + s.regs.noiseXorTap.toNat % 256 ∧
      t = { s with regs := { s.regs with noiseXorTap := t.regs.noiseXorTap } } ∧
      (encode (.wNtaph d)).toNat = 0x0F00 + d.toNat

/-- R160 to R164: the static-volume store of each tone channel, with its word; nothing else changes. -/
def Obligations.StaticVolumeWrites : Prop :=
  ∀ (i : Chan) (d : Byte) (s : State), ∃ t, exec (volInstr i d) s = .next t ∧
    t.regs.staticVolume.get i = d ∧ (∀ j, j ≠ i → t.regs.staticVolume.get j = s.regs.staticVolume.get j) ∧
    t = { s with regs := { s.regs with staticVolume := t.regs.staticVolume } } ∧
    (encode (volInstr i d)).toNat = 256 * (16 + i.index) + d.toNat

/-- R165 to R169: the config store of each tone channel, every bit as written; nothing else changes. What the fields
mean rests on the layout, the spec's decision D7 (log entry 5). -/
def Obligations.ChannelConfigWrites : Prop :=
  ∀ (i : Chan) (d : Byte) (s : State), ∃ t, exec (cfgInstr i d) s = .next t ∧
    t.regs.channelConfig.get i = d ∧ (∀ j, j ≠ i → t.regs.channelConfig.get j = s.regs.channelConfig.get j) ∧
    t = { s with regs := { s.regs with channelConfig := t.regs.channelConfig } } ∧
    (encode (cfgInstr i d)).toNat = 256 * (21 + i.index) + d.toNat

/-- R190 and R191: each byte of the load buffer is replaced alone; no envelope and nothing else changes. -/
def Obligations.LoadBufferWrites : Prop :=
  ∀ (d : Byte) (s : State),
    (∃ t, exec (.wEldl d) s = .next t ∧
      t.regs.envLoadBuffer.toNat = s.regs.envLoadBuffer.toNat / 256 * 256 + d.toNat ∧
      t = { s with regs := { s.regs with envLoadBuffer := t.regs.envLoadBuffer } } ∧
      (encode (.wEldl d)).toNat = 0x1A00 + d.toNat) ∧
    ∃ t, exec (.wEldh d) s = .next t ∧
      t.regs.envLoadBuffer.toNat = d.toNat * 256 + s.regs.envLoadBuffer.toNat % 256 ∧
      t = { s with regs := { s.regs with envLoadBuffer := t.regs.envLoadBuffer } } ∧
      (encode (.wEldh d)).toNat = 0x1B00 + d.toNat

/-- R197 and R198: the increment store of each envelope, with its step; nothing else changes. The cached shift of R200
is the spec's decision D15 (log entry 5). -/
def Obligations.EnvelopeIncrementWrites : Prop :=
  ∀ (g : Gen) (d : Byte) (s : State), ∃ t, exec (eincInstr g d) s = .next t ∧
    t.regs.envIncrement.get g = d ∧
    (t.regs.envShiftedIncrement.get g).toNat = d.toNat * 2 ^ (1 + (s.regs.envOctave.get g).toNat % 8) ∧
    (∀ k, k ≠ g → t.regs.envIncrement.get k = s.regs.envIncrement.get k ∧
      t.regs.envShiftedIncrement.get k = s.regs.envShiftedIncrement.get k) ∧
    t = { s with regs := { s.regs with
          envIncrement := t.regs.envIncrement
          envShiftedIncrement := t.regs.envShiftedIncrement } }

/-- R199 (the spec's decision D15, log entry 5): both octave nibbles; a step is recomputed only where the nibble
changed, and nothing else changes. -/
def Obligations.EnvelopeOctaveWrite : Prop :=
  ∀ (a b : BitVec 4) (s : State), ∃ t, exec (.wEoct a b) s = .next t ∧
    t.regs.envOctave.get .A = a ∧ t.regs.envOctave.get .B = b ∧
    (∀ g, t.regs.envOctave.get g = s.regs.envOctave.get g →
      t.regs.envShiftedIncrement.get g = s.regs.envShiftedIncrement.get g) ∧
    (∀ g, t.regs.envOctave.get g ≠ s.regs.envOctave.get g → (t.regs.envShiftedIncrement.get g).toNat =
      (s.regs.envIncrement.get g).toNat * 2 ^ (1 + (t.regs.envOctave.get g).toNat % 8)) ∧
    t = { s with regs := { s.regs with
          envOctave := t.regs.envOctave
          envShiftedIncrement := t.regs.envShiftedIncrement } }

/-- R192 to R196 (the spec's decisions D10 to D13, log entries 4, 5, 7 and 14), for each generator with nibble at bit
`n`: without the reset bit a changed attack bit toggles the slope and all else of the generator stays; with it the
state and phase are loaded, the halt cleared and the slope set by the attack polarity. The output value stays. -/
def Obligations.EnvelopeShapeWrite : Prop :=
  ∀ (d : Byte) (s : State), ∃ t, exec (.wEshape d) s = .next t ∧
    t.regs.envShape = d ∧
    (∀ g : Gen,
      (d.getLsbD (genNibble g + 3) = false →
        t.synth.envState.get g = s.synth.envState.get g ∧
        t.synth.envPhaseAcc.get g = s.synth.envPhaseAcc.get g ∧
        t.synth.envHalted.get g = s.synth.envHalted.get g ∧
        t.synth.envSlope.get g = xor (s.synth.envSlope.get g)
          (xor (s.regs.envShape.getLsbD (genNibble g + 2)) (d.getLsbD (genNibble g + 2)))) ∧
      (d.getLsbD (genNibble g + 3) = true →
        (t.synth.envState.get g).toNat = s.regs.envLoadBuffer.toNat / 256 ∧
        (t.synth.envPhaseAcc.get g).toNat = s.regs.envLoadBuffer.toNat % 256 * 256 ∧
        t.synth.envHalted.get g = false ∧
        t.synth.envSlope.get g =
          if d.getLsbD (genNibble g + 2) then s.params.slopeAtAttack1 else s.params.slopeAtAttack0)) ∧
    t = { s with
          regs := { s.regs with envShape := d }
          synth := { s.synth with
            envState := t.synth.envState
            envPhaseAcc := t.synth.envPhaseAcc
            envHalted := t.synth.envHalted
            envSlope := t.synth.envSlope } }

/-- R114 (the spec's decision D38, log entry 14): a reserved write changes nothing, and still takes the drain step of
its tick. -/
def Obligations.ReservedWritesOnlyTakeTheirTick : Prop :=
  (∀ (a : Addr) (d : Byte) (s : State),
    exec (.wRsvd32To63 a d) s = .next s ∧ exec (.wRsvd64To127 a d) s = .next s) ∧
  ∀ (s : State) (c : WriteCmd) (rest : List WriteCmd), 32 ≤ c.addr.toNat → s.writeQueue = c :: rest →
    step s = .next (finishTick { s with writeQueue := rest })

/-- R56 and R76 as rules of the whole machine: a register write reaches nothing outside the register file but the
phase accumulators (addresses 6 to 8 only) and the envelopes' state, phase and flags (address 28 only). That a reload
leaves the output `envSmpVolume` is the spec's decision D13 (log entry 7), and that the noise strobe of address 8
leaves the LFSR and the mask is its decision D5 (log entry 14). -/
def Obligations.RegisterWritesReachOnlyTheirOwnState : Prop :=
  ∀ (i : Instr) (s t : State), exec i s = .next t →
    t = { s with regs := t.regs, synth := t.synth } ∧
    t.synth.noiseLFSR = s.synth.noiseLFSR ∧ t.synth.noiseMask = s.synth.noiseMask ∧
    t.synth.envSmpVolume = s.synth.envSmpVolume ∧
    (i.address.toNat ≠ 6 ∧ i.address.toNat ≠ 7 ∧ i.address.toNat ≠ 8 →
      t.synth.tonePhaseAcc = s.synth.tonePhaseAcc ∧ t.synth.noisePhaseAcc = s.synth.noisePhaseAcc) ∧
    (i.address.toNat ≠ 28 → t.synth.envState = s.synth.envState ∧
      t.synth.envPhaseAcc = s.synth.envPhaseAcc ∧ t.synth.envHalted = s.synth.envHalted ∧
      t.synth.envSlope = s.synth.envSlope)

/-- R76's idempotence, which that rule states for most writes, holds of the state for every register: the exceptions
it lists act again when they are applied again and leave the same state. At addresses 6 to 8 a strobe zeroes an
accumulator that is already zero (R136 to R138; the strobes are the spec's decisions D5 and D6, log entry 14), and at
address 28 the second reload loads the same buffer and the second write finds no attack edge (R193 to R196; its
decisions D11, log entry 14, and D13, log entry 7). -/
def Obligations.RepeatedWriteIsIdempotent : Prop :=
  ∀ (i : Instr) (s t : State), exec i s = .next t → exec i t = .next t

/-! ### The update cycle -/

/-- R210 and R211: every tone accumulator advances by its step modulo 65536, and the tone bit compares the
post-increment high byte with the duty cycle. -/
def Obligations.ToneAccumulatorAndBit : Prop :=
  ∀ (s : State) (i : Chan),
    ((updateCycle s).synth.tonePhaseAcc.get i).toNat =
      ((s.synth.tonePhaseAcc.get i).toNat + (s.regs.shiftedIncrement.get i).toNat) % 65536 ∧
    ((toneBits (toneStep s)).get i = true ↔
      ((updateCycle s).synth.tonePhaseAcc.get i).toNat / 256 < (s.regs.dutyCycle.get i).toNat)

/-- R214 and R215 with R216 (the mask's polarity is the spec's decision D9, log entry 6): the noise accumulator
advances modulo 65536, and the LFSR advances exactly when the addition carries out of bit 15. -/
def Obligations.NoiseAdvancesExactlyOnCarry : Prop :=
  ∀ s : State,
    (updateCycle s).synth.noisePhaseAcc.toNat =
      (s.synth.noisePhaseAcc.toNat + s.regs.noiseShiftedIncrement.toNat) % 65536 ∧
    (65536 ≤ s.synth.noisePhaseAcc.toNat + s.regs.noiseShiftedIncrement.toNat →
      (s.synth.noiseLFSR.toNat % 2 = 1 →
        (updateCycle s).synth.noiseLFSR.toNat = s.synth.noiseLFSR.toNat / 2 ∧
        (updateCycle s).synth.noiseMask = 0xFF) ∧
      (s.synth.noiseLFSR.toNat % 2 = 0 →
        (updateCycle s).synth.noiseLFSR.toNat = (s.synth.noiseLFSR.toNat / 2) ^^^ s.regs.noiseXorTap.toNat ∧
        (updateCycle s).synth.noiseMask = 0x00)) ∧
    (s.synth.noisePhaseAcc.toNat + s.regs.noiseShiftedIncrement.toNat < 65536 →
      (updateCycle s).synth.noiseLFSR = s.synth.noiseLFSR ∧ (updateCycle s).synth.noiseMask = s.synth.noiseMask)

/-- R282 and R237 (the order of the steps is the spec's decision D16, log entry 13): the update cycle treats each
generator as its own envelope update does, whatever the tone, the noise and the other generator do. -/
def Obligations.EnvelopesUpdateIndependently : Prop :=
  ∀ (g : Gen) (s : State), EnvSame g (envUpdate g s) (updateCycle s)

/-- R230 (the spec's decision D35, log entry 14): a halted generator changes nothing in an update cycle. -/
def Obligations.HaltedEnvelopeStays : Prop :=
  ∀ (g : Gen) (s : State), s.synth.envHalted.get g = true → EnvSame g s (updateCycle s)

/-- R231 to R233 with their derived bounds (the octave layout is the spec's decision D15, log entry 5), from every
state of the invariant: `envState : envPhaseAcc` of a generator that is not halted is one 24-bit counter that advances
by the step, at most 0xFF0000, modulo 2^24, and the overflow test detects exactly the passing of 2^24. -/
def Obligations.EnvelopeIsA24BitCounter : Prop :=
  ∀ (g : Gen) (s : State), Inv s →
    (envStep g s).toNat = envAmount g s ∧ envAmount g s ≤ 0xFF0000 ∧
    (envScratch g s).toNat = (s.synth.envPhaseAcc.get g).toNat + envAmount g s ∧ (envScratch g s).toNat < 2 ^ 24 ∧
    (envBoundary g s = true ↔ 2 ^ 24 ≤ envCounter g s + envAmount g s) ∧
    (s.synth.envHalted.get g = false →
      envCounter g (envUpdate g s) = (envCounter g s + envAmount g s) % 2 ^ 24)

/-- R200's derived clause with R231 and R232 (the octave's layout and shift are the spec's decision D15, log entry 5):
under the invariant the step the envelope update adds is `inc << (1 + oct)` for every octave 0..15, and an update cycle
advances the 24-bit counter of a generator that is not halted by exactly that amount, modulo 2^24. -/
def Obligations.EnvelopeAmountSpansSixteenOctaves : Prop :=
  ∀ (g : Gen) (s : State), Inv s →
    (envStep g s).toNat = (s.regs.envIncrement.get g).toNat * 2 ^ (1 + (s.regs.envOctave.get g).toNat) ∧
    envAmount g s = (envStep g s).toNat ∧
    (s.synth.envHalted.get g = false → envCounter g (updateCycle s) =
      (envCounter g s + (s.regs.envIncrement.get g).toNat * 2 ^ (1 + (s.regs.envOctave.get g).toNat)) % 2 ^ 24)

/-- R234 to R236 (the place of the inversion is the spec's decision D14, the shape's layout its D10; log entries 5 and
14): without a carry nothing is loaded; with one the state is loaded, a boundary toggles the slope if ALT and forces
0xFF and halts if HOLD, and a clear slope complements the value. -/
def Obligations.EnvelopeOutputRule : Prop :=
  ∀ (g : Gen) (s : State), Inv s → s.synth.envHalted.get g = false →
    ((s.synth.envPhaseAcc.get g).toNat + envAmount g s < 65536 →
      (envUpdate g s).synth.envSmpVolume.get g = s.synth.envSmpVolume.get g ∧
      (envUpdate g s).synth.envSlope.get g = s.synth.envSlope.get g ∧
      (envUpdate g s).synth.envHalted.get g = false) ∧
    (65536 ≤ (s.synth.envPhaseAcc.get g).toNat + envAmount g s →
      (2 ^ 24 ≤ envCounter g s + envAmount g s →
        (envUpdate g s).synth.envSlope.get g =
          xor (s.synth.envSlope.get g) (s.regs.envShape.getLsbD (genNibble g + 1)) ∧
        (envUpdate g s).synth.envHalted.get g = s.regs.envShape.getLsbD (genNibble g) ∧
        ((envUpdate g s).synth.envSmpVolume.get g).toNat =
          (let v := if s.regs.envShape.getLsbD (genNibble g) then 255 else ((envUpdate g s).synth.envState.get g).toNat
           if (envUpdate g s).synth.envSlope.get g then v else 255 - v)) ∧
      (envCounter g s + envAmount g s < 2 ^ 24 →
        (envUpdate g s).synth.envSlope.get g = s.synth.envSlope.get g ∧
        (envUpdate g s).synth.envHalted.get g = false ∧
        ((envUpdate g s).synth.envSmpVolume.get g).toNat =
          if s.synth.envSlope.get g then ((envUpdate g s).synth.envState.get g).toNat
          else 255 - ((envUpdate g s).synth.envState.get g).toNat))

/-- R238's second row and R239 (derived in the spec from R237; the shape's layout and the inversion's place are its
decisions D10 and D14, log entries 5 and 14): a rising generator of shape hold = 1, alternate = 0 never
descends over update cycles, and once its counter has passed 2^24 it is halted at its maximum. -/
def Obligations.HoldShapeRisesAndHolds : Prop :=
  ∀ (g : Gen) (s : State), Inv s → s.synth.envHalted.get g = false → s.synth.envSlope.get g = true →
    s.regs.envShape.getLsbD (genNibble g) = true → s.regs.envShape.getLsbD (genNibble g + 1) = false →
    (s.synth.envSmpVolume.get g).toNat ≤ (s.synth.envState.get g).toNat → ∀ n : Nat,
      ((updateCycle^[n] s).synth.envSmpVolume.get g).toNat ≤ ((updateCycle^[n + 1] s).synth.envSmpVolume.get g).toNat ∧
      (2 ^ 24 ≤ envCounter g s + n * envAmount g s →
        (updateCycle^[n] s).synth.envHalted.get g = true ∧ (updateCycle^[n] s).synth.envSmpVolume.get g = 0xFF) ∧
      (envCounter g s + n * envAmount g s < 2 ^ 24 →
        (updateCycle^[n] s).synth.envHalted.get g = false ∧
        envCounter g (updateCycle^[n] s) = envCounter g s + n * envAmount g s)

/-- R250 to R254 (the config layout is the spec's decision D7, the multiplier its D8 and the order its D16; log entries
3, 5 and 13): the mixer
of an update cycle uses the tone bit, the noise mask and the envelope outputs of the same update cycle. -/
def Obligations.MixerFollowsTheSameUpdate : Prop :=
  ∀ (s : State) (i : Chan),
    let t := updateCycle s
    let c := s.regs.channelConfig.get i
    let e := if c.getLsbD 5 then t.synth.envSmpVolume.B else t.synth.envSmpVolume.A
    let level := if c.getLsbD 6 then (if (s.regs.staticVolume.get i).getLsbD 7 then e.toNat else e.toNat / 2)
      else (s.regs.staticVolume.get i).toNat
    let active := (toneBits (toneStep s)).get i || (c.getLsbD 7 && t.synth.noiseMask != 0)
    t.out.channelOutput.get i = (if active then level * panMult s.params c else 0) ∧
    (s.params.panMultListed = [] → panMult s.params c = c.toNat % 4 + 1)

/-- R255 to R258 (the spec's decisions D17, D19 and D30; log entries 2 and 18): the unmuted outputs are summed, scaled
and shifted, and the sample goes to the slot of the next update period, the other slot staying. -/
def Obligations.MixedSampleGoesToTheNextSlot : Prop :=
  ∀ s : State,
    let t := updateCycle s
    let term := fun i : Chan => if s.settings.mute.get i then 0 else t.out.channelOutput.get i
    let sum := term .c0 + term .c1 + term .c2 + term .c3 + term .c4
    t.out.delayRing.get (s.clockCycle.toNat / 512 + 1) =
      sum * s.params.mixScale / 2 ^ min 20 (s.params.mixShiftBase - s.settings.outputBitdepth) ∧
    t.out.delayRing.get (s.clockCycle.toNat / 512) = s.out.delayRing.get (s.clockCycle.toNat / 512)

/-- An update cycle changes nothing outside the running synthesis state, the channel outputs and the ring (R282). -/
def Obligations.UpdateCycleFrame : Prop :=
  ∀ s : State, updateCycle s = { s with
    synth := (updateCycle s).synth
    out := { s.out with
      channelOutput := (updateCycle s).out.channelOutput
      delayRing := (updateCycle s).out.delayRing } }

/-- R262 (derived in the spec; the ring is its decision D19, log entry 18, the update boundary its D2, log entry 13, and
the exact levels its D20, log entry 8): for both output types, the sample an update cycle at tick u mixes is what the output of exactly the ticks u + 512 to
u + 1023 is made from, whatever writes are drained between: the sample itself under APPROX, and its comparison with
the low byte of the tick's clock, which is k modulo 256, under EXACT. -/
def Obligations.OutputLatencyIs512Ticks : Prop :=
  ∀ (s u : State) (k : Nat), s.clockCycle.toNat % 512 = 0 → k < 512 → step s = .next u →
    let sample := u.out.delayRing.get (s.clockCycle.toNat / 512 + 1)
    ∃ t, runTicks (513 + k) s = .next t ∧
      (s.settings.outputType = .approx → t.out.currentOutput = sample) ∧
      (s.settings.outputType = .exact → t.out.currentOutput =
        if k % 256 > sample then 0 else 2 ^ s.settings.outputBitdepth - 1)

/-- R261's count as a sum (the levels and the polarity are the spec's decision D20, log entry 8): over one 256-tick PWM
period the recorded exact outputs sum to the high level times `delayed + 1`, or times 256 if that is less. -/
def Obligations.ExactPwmDutyIsTheSamplePlusOne : Prop :=
  ∀ (s t : State), s.clockCycle.toNat % 256 = 0 → s.settings.outputType = .exact → s.settings.quality = .mean →
    s.recorded = [] → runTicks 256 s = .next t →
      t.recorded.sum = (2 ^ s.settings.outputBitdepth - 1) * min 256 (delayed s + 1) ∧ t.recorded.length = 256

/-! ### Invariants -/

/-- The invariant holds right after reset, at the arguments of log entry 1 and for every value of the free parameters
(log entry 2). -/
def Obligations.ResetSatisfiesTheInvariant : Prop := Idle State.reset

/-- The invariant holds of every instance `create` makes from sound arguments (R333, R335). -/
def Obligations.CreatedInstancesSatisfyTheInvariant : Prop :=
  ∀ (a : CreateArgs) (scratch : Bool), ArgsSound a → Idle (State.created a scratch)

/-- R55's invariants and the bounds of R37, R43 to R45, R50 and R52 are kept by every tick, from every state. -/
def Obligations.EveryStepKeepsTheInvariant : Prop :=
  ∀ s t : State, Inv s → step s = .next t → Inv t

/-- The invariant between calls is kept by every host call that is not refused (R55; R285 for the accumulator). -/
def Obligations.EveryHostCallKeepsTheInvariant : Prop :=
  ∀ (c : HostCall) (s t : State) (r : CallResult), Idle s → hostCall c s = .next (t, r) → Idle t

/-- R335 and R336 (derived in the spec; the config layout is its decision D7, the exact levels its D20 and what reset
zeroes its D27, log entries 5, 8 and 20): every step from a silent state gives a silent state, whatever other writes are
queued and whatever tone, noise and envelopes do; the APPROX output is 0, and the EXACT output is the high level
exactly when the clock's low byte is 0 and else 0. Create, from sound arguments, and reset, with no write to addresses
16 to 25 pending, leave a silent state. -/
def Obligations.SilentUntilWritten : Prop :=
  (∀ s : State, Silent s → ∃ t, step s = .next t ∧ Silent t ∧
    (s.settings.outputType = .approx → t.out.currentOutput = 0) ∧
    (s.settings.outputType = .exact → t.out.currentOutput =
      if s.clockCycle.toNat % 256 = 0 then 2 ^ s.settings.outputBitdepth - 1 else 0)) ∧
  (∀ (a : CreateArgs) (scratch : Bool), ArgsSound a → Silent (State.created a scratch)) ∧
  ∀ s : State, Idle s → (∀ c ∈ s.writeQueue, c.addr.toNat < 16 ∨ 25 < c.addr.toNat) →
    ∃ t, hostCall .reset s = .next (t, .none) ∧ Silent t

/-! ### The host interface -/

/-- R110: below capacity the write is appended; otherwise it is silently dropped. Nothing else changes. -/
def Obligations.EnqueueAppendsOrDrops : Prop :=
  ∀ (a : Addr) (d : Byte) (s : State), ∃ t, enqueueWrite a.toNat d.toNat s = .next t ∧
    (s.writeQueue.length < s.settings.writeQueueCapacity →
      t = { s with writeQueue := s.writeQueue ++ [⟨a, d⟩] }) ∧
    (s.settings.writeQueueCapacity ≤ s.writeQueue.length → t = s)

/-- R283 to R285 (the exact rational is the spec's decision D22, log entry 19): one call runs `floor(tickAccumulator +
ratio)` ticks, the floor or the ceiling of the ratio, and keeps the fraction, which stays in [0, 1). -/
def Obligations.SampleRunsTheWholeTicks : Prop :=
  ∀ (s t : State) (v : Nat), Idle s → produceSample s = .next (t, v) → ∃ n : Nat,
    (n : Int) = ⌊s.tickAccumulator + s.settings.ticksPerOutputSample⌋ ∧
    ((n : Int) = ⌊s.settings.ticksPerOutputSample⌋ ∨ (n : Int) = ⌈s.settings.ticksPerOutputSample⌉) ∧
    t.clockCycle = s.clockCycle + BitVec.ofNat 32 n ∧
    t.tickAccumulator = s.tickAccumulator + s.settings.ticksPerOutputSample - n ∧
    0 ≤ t.tickAccumulator ∧ t.tickAccumulator < 1 ∧
    t.writeQueue = s.writeQueue.drop n

/-- R285's derived clause (the exact rational is the spec's decision D22, log entry 19): over k calls from an
accumulator of 0 the ticks run are `floor(k * ticksPerOutputSample)` in total, and the accumulator holds the fraction.
-/
def Obligations.TicksOverManyCalls : Prop :=
  ∀ (s : State) (k : Nat), Idle s → s.tickAccumulator = 0 → ∃ t, runSamples k s = .next t ∧
    t.clockCycle = s.clockCycle + BitVec.ofNat 32 ⌊(k : Rat) * s.settings.ticksPerOutputSample⌋.toNat ∧
    t.tickAccumulator = Int.fract ((k : Rat) * s.settings.ticksPerOutputSample) ∧
    0 ≤ t.tickAccumulator ∧ t.tickAccumulator < 1

/-- R286: quality 0, or a call that ran no tick, returns the current output; quality 1 returns the truncated mean of
the outputs of the call's ticks. The zero-tick case is the spec's decision D23 (log entry 19). -/
def Obligations.SampleIsTheLastOutputOrTheMean : Prop :=
  ∀ (s t : State) (v : Nat), Idle s → produceSample s = .next (t, v) →
    (s.settings.quality = .nearest ∨ ticksDue s = 0 → v = t.out.currentOutput) ∧
    (s.settings.quality = .mean → 0 < ticksDue s →
      (tickOutputs (ticksDue s) (beginSample s)).length = ticksDue s ∧
      v = (tickOutputs (ticksDue s) (beginSample s)).sum / ticksDue s) ∧
    (ticksDue s = 0 → t = { s with tickAccumulator := s.tickAccumulator + s.settings.ticksPerOutputSample })

/-- R292 and R293 (the spec's decision D26; that the reduction modulo `2^N` holds at bit depths above `N` too is DEDUCED
from R292's sentence on it and from R293's range, log entry 9): every raw result is shifted by the difference of the
widths and reduced modulo `2^N`, and the signed result is the unsigned one less `2^(N-1)`; a raw result that fits the
bit depth is not changed by the reduction, 0 maps to the most negative value and `2^(bd-1)` to 0. -/
def Obligations.RescaledResultsFillTheRange : Prop :=
  ∀ (w : SampleWidth) (bd r : Nat), 1 ≤ bd → bd ≤ 32 →
    (bd ≤ w.bits → rescaleUnsigned w.bits bd r = r * 2 ^ (w.bits - bd) % 2 ^ w.bits) ∧
    (w.bits < bd → rescaleUnsigned w.bits bd r = r / 2 ^ (bd - w.bits) % 2 ^ w.bits) ∧
    rescaleUnsigned w.bits bd r < 2 ^ w.bits ∧
    rescaleSigned w.bits bd r = (rescaleUnsigned w.bits bd r : Int) - 2 ^ (w.bits - 1) ∧
    -(2 ^ (w.bits - 1) : Int) ≤ rescaleSigned w.bits bd r ∧ rescaleSigned w.bits bd r < 2 ^ (w.bits - 1) ∧
    (r < 2 ^ bd →
      (bd ≤ w.bits → rescaleUnsigned w.bits bd r = r * 2 ^ (w.bits - bd)) ∧
      (w.bits < bd → rescaleUnsigned w.bits bd r = r / 2 ^ (bd - w.bits)) ∧
      (r = 0 → rescaleSigned w.bits bd r = -(2 ^ (w.bits - 1) : Int)) ∧
      (r = 2 ^ (bd - 1) → rescaleSigned w.bits bd r = 0))

/-- R298 (the spec's decision D26, log entry 9): a rescaled variant advances the core as produceSample does, and returns that
call's result rescaled. -/
def Obligations.RescaledVariantsAreOneSample : Prop :=
  ∀ (w : SampleWidth) (s t : State) (v : Nat), hostCall .produceSample s = .next (t, .sample v) →
    hostCall (.produceSampleU w) s = .next (t, .sample (rescaleUnsigned w.bits s.settings.outputBitdepth v)) ∧
    hostCall (.produceSampleS w) s = .next (t, .signedSample (rescaleSigned w.bits s.settings.outputBitdepth v))

/-- R289 to R291 and R294 (the spec's decisions D24, D30, D32 and D36, log entry 19): what each configuration call
changes, for arguments R314 lets through. -/
def Obligations.ConfigurationCalls : Prop :=
  (∀ (s : State) (c r : Nat) (alloc : Bool), 0 < c → 0 < r →
    ∃ t, setClockAndRate c r alloc s = .next t ∧ t.settings.ticksPerOutputSample = (c : Rat) / (r : Rat) ∧
      (alloc = false → t.settings.quality = .nearest) ∧ (alloc = true → t.settings.quality = s.settings.quality) ∧
      t = { s with settings := { s.settings with
            clockHz := c
            sampleRateHz := r
            ticksPerOutputSample := t.settings.ticksPerOutputSample
            scratchAvailable := alloc
            quality := t.settings.quality } }) ∧
  (∀ s : State, setOutputType 0 s = .next { s with settings := { s.settings with outputType := .approx } } ∧
    setOutputType 1 s = .next { s with settings := { s.settings with outputType := .exact } }) ∧
  (∀ (s : State) (l : Nat),
    setQuality l s = { s with settings := { s.settings with quality := (setQuality l s).settings.quality } } ∧
    ((setQuality l s).settings.quality = .mean ↔ 1 ≤ l ∧ s.settings.scratchAvailable = true)) ∧
  ∀ (s : State) (b : Bool), (∀ n, 4 < n → setMute n b s = s) ∧
    ∀ i : Chan, (setMute i.index b s).settings.mute.get i = b ∧
      (∀ j, j ≠ i → (setMute i.index b s).settings.mute.get j = s.settings.mute.get j) ∧
      setMute i.index b s = { s with settings := { s.settings with mute := (setMute i.index b s).settings.mute } }

/-- R314 and R334 (the spec's decisions D18, D21, D29, D32 and D44, log entries 12 and 16): the calls the interface
turns away, each by name. -/
def Obligations.BoundaryRefusals : Prop :=
  (∀ (s : State) (a d : Nat), 127 < a → hostCall (.enqueueWrite a d) s = .refused .addressAbove127) ∧
  (∀ (s : State) (a d : Nat), a ≤ 127 → 255 < d → hostCall (.enqueueWrite a d) s = .refused .dataAbove255) ∧
  (∀ (s : State) (r : Nat) (b : Bool), hostCall (.setClockAndRate 0 r b) s = .refused .zeroClock) ∧
  (∀ (s : State) (c : Nat) (b : Bool), 0 < c → hostCall (.setClockAndRate c 0 b) s = .refused .zeroSampleRate) ∧
  (∀ (s : State) (n : Nat), 1 < n → hostCall (.setOutputType n) s = .refused .unknownOutputType) ∧
  (∀ (w : World) (a : CreateArgs) (p q : Bool), a.clockHz = 0 → World.create a p q w = .refused .zeroClock) ∧
  (∀ (w : World) (a : CreateArgs) (p q : Bool), 0 < a.clockHz → a.sampleRateHz = 0 →
    World.create a p q w = .refused .zeroSampleRate) ∧
  (∀ (w : World) (a : CreateArgs) (p q : Bool), 0 < a.clockHz → 0 < a.sampleRateHz →
    a.outputBitdepth = 0 ∨ 32 < a.outputBitdepth → World.create a p q w = .refused .bitdepthOutOfRange) ∧
  ∀ (w : World) (h : Nat) (c : HostCall), w.find h = none →
    w.call h c = .refused .deadHandle ∧ w.destroy h = .refused .deadHandle

/-- R330 to R332 (the spec's decision D27 and its conflict C2, log entry 20): reset gives every register and running
element its reset value, sets the tap to 0x2400, and keeps the queue, the settings and the parameters. -/
def Obligations.ResetZeroesTheMusicAndKeepsTheRest : Prop :=
  ∀ s : State, ∃ t, hostCall .reset s = .next (t, .none) ∧
    t.clockCycle = 0 ∧ t.tickAccumulator = 0 ∧ t.out = ⟨.const 0, ⟨0, 0⟩, 0⟩ ∧
    t.synth = ⟨.const 0, 0, 0, 0, .const 0, .const 0, .const 0, .const false, .const false⟩ ∧
    t.regs = ⟨.const 0, .const 0, .const 0, .const 0, .const 0, .const 0, 0, 0, 0, 0x2400, 0, 0,
      .const 0, .const 0, .const 0⟩ ∧
    t.writeQueue = s.writeQueue ∧ t.settings = s.settings ∧ t.params = s.params

/-- R296 for the calls that are neither samples nor reset: none runs a tick, applies a queued write or changes the
clock. R289 to R294 for the same calls: none touches a register, the running state, the output or the tick accumulator.
That a change of the rates keeps the accumulator is the spec's decision D32, and that a configuration change leaves the
running state and the output is its decision D36 (log entry 19). -/
def Obligations.OnlySamplesAdvanceTime : Prop :=
  ∀ (c : HostCall) (s t : State) (r : CallResult), hostCall c s = .next (t, r) → c ≠ .reset → c ≠ .produceSample →
    (∀ w, c ≠ .produceSampleU w) → (∀ w, c ≠ .produceSampleS w) →
      t.clockCycle = s.clockCycle ∧ t.regs = s.regs ∧ t.synth = s.synth ∧ t.out = s.out ∧
      t.tickAccumulator = s.tickAccumulator ∧ s.writeQueue <+: t.writeQueue

/-- R333 with the draws of R297 (the spec's decisions D25 and D31, log entries 15, 16 and 20): a failed instance draw
makes no instance; otherwise the new handle names an instance in the create state, with quality 0. -/
def Obligations.CreateFollowsItsDraws : Prop :=
  ∀ (a : CreateArgs) (w : World) (scratch : Bool), 0 < a.clockHz → 0 < a.sampleRateHz → 1 ≤ a.outputBitdepth →
    a.outputBitdepth ≤ 32 → (∀ e ∈ w.live, e.1 < w.nextHandle) →
      World.create a false scratch w = .next (w, .allocationError) ∧
      ∃ w' : World, World.create a true scratch w = .next (w', .handle w.nextHandle) ∧
        w'.find w.nextHandle = some (State.created a scratch) ∧
        (∀ h, h ≠ w.nextHandle → w'.find h = w.find h) ∧ (∀ e ∈ w'.live, e.1 < w'.nextHandle) ∧
        (State.created a scratch).settings.quality = .nearest ∧
        (State.created a scratch).settings.scratchAvailable = scratch ∧ (State.created a scratch).writeQueue = []

/-- R321: a call on one instance, or its destruction, never changes another; the called instance gets the call's state.
That a destroyed handle names nothing is R334, the spec's decision D44; that handles are numbers in a list of instances
is the model's DESIGN CHOICE (log entry 16). -/
def Obligations.InstancesNeverShareState : Prop :=
  ∀ (w : World) (h : Nat),
    (∀ (c : HostCall) (w' : World) (r : CallResult), w.call h c = .next (w', r) →
      (∀ k, k ≠ h → w'.find k = w.find k) ∧
      ∃ s t, w.find h = some s ∧ hostCall c s = .next (t, r) ∧ w'.find h = some t) ∧
    ∀ (w' : World) (r : CallResult), w.destroy h = .next (w', r) →
      w'.find h = none ∧ ∀ k, k ≠ h → w'.find k = w.find k

/-- R105's DRAIN (its bound is log entry 17): samples repeated until no write is pending do empty the queue, from
every state between calls. -/
def Obligations.DrainEmptiesTheQueue : Prop :=
  ∀ s : State, Idle s → ∃ t rs, ScriptLine.DRAIN.run s = .next (t, rs) ∧ hasPendingWrites t = false ∧ Idle t
end

