-- ==== Sys2Proof/Laws/Decode.lean ====
section
/-! SUPPORT. Packing and unpacking command words and data bytes. -/

namespace Sys2Proof

/-- A word is its address times 256 plus its data byte (R90). -/
theorem word_toNat (c : WriteCmd) : c.word.toNat = c.addr.toNat * 256 + c.data.toNat := by
  unfold WriteCmd.word
  rw [BitVec.toNat_append, ← Nat.shiftLeft_add_eq_or_of_lt c.data.isLt, Nat.shiftLeft_eq]

@[simp] theorem wordAddr_word (c : WriteCmd) : wordAddr c.word = c.addr := by
  apply BitVec.eq_of_toNat_eq
  have := c.addr.isLt
  have := c.data.isLt
  simp only [wordAddr, BitVec.extractLsb'_toNat, word_toNat, Nat.shiftRight_eq_div_pow]
  omega

@[simp] theorem wordData_word (c : WriteCmd) : wordData c.word = c.data := by
  apply BitVec.eq_of_toNat_eq
  have := c.data.isLt
  simp only [wordData, BitVec.extractLsb'_toNat, word_toNat, Nat.shiftRight_eq_div_pow]
  omega

@[simp] theorem ofWord_word (c : WriteCmd) : WriteCmd.ofWord c.word = c := by
  simp [WriteCmd.ofWord]

/-- A word is what its address and data byte pack to (R90). -/
@[simp] theorem word_ofWord (w : CmdWord) : (WriteCmd.ofWord w).word = w := by
  apply BitVec.eq_of_toNat_eq
  have := w.isLt
  simp only [word_toNat, WriteCmd.ofWord, wordAddr, wordData, BitVec.extractLsb'_toNat, Nat.shiftRight_eq_div_pow]
  omega

/-- The fields of an octave/phase-reset byte are read back as written (R95). -/
theorem octPairByte_fields (o₁ : BitVec 3) (r₁ : Bool) (o₂ : BitVec 3) (r₂ : Bool) :
    octFirst (octPairByte o₁ r₁ o₂ r₂) = o₁ ∧ rstFirst (octPairByte o₁ r₁ o₂ r₂) = r₁ ∧
      octSecond (octPairByte o₁ r₁ o₂ r₂) = o₂ ∧ rstSecond (octPairByte o₁ r₁ o₂ r₂) = r₂ := by
  revert o₁ o₂
  cases r₁ <;> cases r₂ <;> decide

/-- The nibbles of an envelope-octave byte are read back as written (R100). -/
theorem envOctByte_fields (a b : BitVec 4) : octA (envOctByte a b) = a ∧ octB (envOctByte a b) = b := by
  revert a b
  decide

end Sys2Proof
end

