-- ==== Sys2Proof/Laws/Operands.lean ====
section
/-! SUPPORT. The operand forms as numbers: each lemma says what a form computes, so that no proof unfolds its bits. -/

namespace Sys2Proof.Machine

/-- R139: no bit of a shifted increment is lost. -/
theorem pitchShift_toNat (inc : Byte) (oct : BitVec 3) : (pitchShift inc oct).toNat = inc.toNat * 2 ^ (1 + oct.toNat) := by
  have hi := inc.isLt
  have ho : oct.toNat ≤ 7 := by have := oct.isLt; omega
  have hp : 2 ^ (1 + oct.toNat) ≤ 2 ^ 8 := Nat.pow_le_pow_right (by omega) (by omega)
  have hb : inc.toNat * 2 ^ (1 + oct.toNat) < 2 ^ 16 := by
    calc inc.toNat * 2 ^ (1 + oct.toNat) ≤ inc.toNat * 2 ^ 8 := Nat.mul_le_mul_left _ hp
      _ < 2 ^ 16 := by omega
  unfold pitchShift
  rw [BitVec.toNat_shiftLeft, BitVec.toNat_setWidth, Nat.shiftLeft_eq, Nat.mod_eq_of_lt (a := inc.toNat) (by omega),
    Nat.mod_eq_of_lt hb]

/-- R200: the low three octave bits select the cached shift. -/
theorem envShift_toNat (inc : Byte) (oct : BitVec 4) :
    (envShift inc oct).toNat = inc.toNat * 2 ^ (1 + oct.toNat % 8) := by
  unfold envShift
  rw [pitchShift_toNat]
  simp [BitVec.extractLsb'_toNat]

@[simp] theorem highByte_toNat (v : Half) : (highByte v).toNat = v.toNat / 256 := by
  have := v.isLt
  simp [highByte, BitVec.extractLsb'_toNat, Nat.shiftRight_eq_div_pow]
  omega

@[simp] theorem lowByte_toNat (v : Half) : (lowByte v).toNat = v.toNat % 256 := by
  simp [lowByte, BitVec.extractLsb'_toNat]

/-- A 16-bit register assembled from its bytes, high : low (R101). -/
theorem append_toNat (hi lo : Byte) : (hi ++ lo : BitVec 16).toNat = hi.toNat * 256 + lo.toNat := by
  rw [BitVec.toNat_append, ← Nat.shiftLeft_add_eq_or_of_lt lo.isLt, Nat.shiftLeft_eq]

theorem withLowByte_toNat (v : Half) (d : Byte) : (withLowByte v d).toNat = v.toNat / 256 * 256 + d.toNat := by
  unfold withLowByte
  rw [append_toNat, highByte_toNat]

theorem withHighByte_toNat (v : Half) (d : Byte) : (withHighByte v d).toNat = d.toNat * 256 + v.toNat % 256 := by
  unfold withHighByte
  rw [append_toNat, lowByte_toNat]

/-- R214: the comparison detects the carry out of bit 15 exactly. -/
theorem noiseWrapped_iff (acc step : Half) : noiseWrapped (acc + step) step = true ↔ 2 ^ 16 ≤ acc.toNat + step.toNat := by
  have := acc.isLt
  have := step.isLt
  simp [noiseWrapped, BitVec.toNat_add]
  omega

/-- R233: the comparison detects the overflow of `envState` exactly. -/
theorem envOverflow_iff (state carry : Byte) : envOverflow (state + carry) carry = true ↔ 2 ^ 8 ≤ state.toNat + carry.toNat := by
  have hs := state.isLt
  have hc := carry.isLt
  have hz : carry ≠ 0 ↔ carry.toNat ≠ 0 := by
    rw [ne_eq, ne_eq, ← BitVec.toNat_inj]
    simp
  simp only [envOverflow, Bool.and_eq_true, bne_iff_ne, decide_eq_true_eq, BitVec.toNat_add, hz]
  omega

end Sys2Proof.Machine
end

