-- ==== Sys2Proof/Laws/State.lean ====
section
/-! SUPPORT. The small lemmas of the state: reading an array after a write, and what each shared update leaves of the
groups of `State`. -/

namespace Sys2Proof.Machine

/-! ### Arrays -/

@[simp] theorem PerChan.get_set_self {α : Type} (x : PerChan α) (i : Chan) (v : α) : (x.set i v).get i = v := by
  cases i <;> rfl

theorem PerChan.get_set_ne {α : Type} (x : PerChan α) {i j : Chan} (v : α) (h : j ≠ i) :
    (x.set i v).get j = x.get j := by
  cases i <;> cases j <;> first | rfl | exact absurd rfl h

theorem PerChan.get_set {α : Type} (x : PerChan α) (i j : Chan) (v : α) :
    (x.set i v).get j = if j = i then v else x.get j := by
  split
  · next h => subst h; simp
  · next h => exact PerChan.get_set_ne x v h

@[simp] theorem PerChan.get_ofFn {α : Type} (f : Chan → α) (i : Chan) : (PerChan.ofFn f).get i = f i := by
  cases i <;> rfl

@[simp] theorem PerChan.get_const {α : Type} (v : α) (i : Chan) : (PerChan.const v).get i = v := by
  cases i <;> rfl

@[ext] theorem PerChan.ext_get {α : Type} {x y : PerChan α} (h : ∀ i, x.get i = y.get i) : x = y := by
  have h0 := h .c0
  have h1 := h .c1
  have h2 := h .c2
  have h3 := h .c3
  have h4 := h .c4
  cases x
  cases y
  simp_all [PerChan.get]

@[simp] theorem PerChan.set_get_self {α : Type} (x : PerChan α) (i : Chan) : x.set i (x.get i) = x := by
  cases i <;> rfl

@[simp] theorem PerChan.set_set {α : Type} (x : PerChan α) (i : Chan) (v w : α) : (x.set i v).set i w = x.set i w := by
  cases i <;> rfl

@[simp] theorem PerGen.get_set_self {α : Type} (x : PerGen α) (g : Gen) (v : α) : (x.set g v).get g = v := by
  cases g <;> rfl

theorem PerGen.get_set_ne {α : Type} (x : PerGen α) {g k : Gen} (v : α) (h : k ≠ g) :
    (x.set g v).get k = x.get k := by
  cases g <;> cases k <;> first | rfl | exact absurd rfl h

theorem PerGen.get_set {α : Type} (x : PerGen α) (g k : Gen) (v : α) :
    (x.set g v).get k = if k = g then v else x.get k := by
  split
  · next h => subst h; simp
  · next h => exact PerGen.get_set_ne x v h

@[simp] theorem PerGen.get_ofFn {α : Type} (f : Gen → α) (g : Gen) : (PerGen.ofFn f).get g = f g := by
  cases g <;> rfl

@[simp] theorem PerGen.get_const {α : Type} (v : α) (g : Gen) : (PerGen.const v).get g = v := by
  cases g <;> rfl

@[ext] theorem PerGen.ext_get {α : Type} {x y : PerGen α} (h : ∀ g, x.get g = y.get g) : x = y := by
  have hA := h .A
  have hB := h .B
  cases x
  cases y
  simp_all [PerGen.get]

@[simp] theorem PerGen.set_get_self {α : Type} (x : PerGen α) (g : Gen) : x.set g (x.get g) = x := by
  cases g <;> rfl

@[simp] theorem PerGen.set_set {α : Type} (x : PerGen α) (g : Gen) (v w : α) : (x.set g v).set g w = x.set g w := by
  cases g <;> rfl

/-! ### The delay ring -/

/-- Reading slot `m` after a write of slot `n`: the slots are named modulo 2 (R258, R259). -/
theorem Ring.get_set (r : Ring) (n m v : Nat) : (r.set n v).get m = if m % 2 = n % 2 then v else r.get m := by
  unfold Ring.get Ring.set
  rcases Nat.mod_two_eq_zero_or_one n with h | h <;> rcases Nat.mod_two_eq_zero_or_one m with k | k <;> simp [h, k]

theorem Ring.get_congr (r : Ring) {n m : Nat} (h : n % 2 = m % 2) : r.get n = r.get m := by
  unfold Ring.get
  rw [h]

/-! ### What the pieces of a tick leave -/

@[simp] theorem toneStep_regs (s : State) : (toneStep s).regs = s.regs := rfl
@[simp] theorem toneStep_out (s : State) : (toneStep s).out = s.out := rfl
@[simp] theorem toneStep_settings (s : State) : (toneStep s).settings = s.settings := rfl
@[simp] theorem toneStep_params (s : State) : (toneStep s).params = s.params := rfl
@[simp] theorem toneStep_clockCycle (s : State) : (toneStep s).clockCycle = s.clockCycle := rfl
@[simp] theorem toneStep_writeQueue (s : State) : (toneStep s).writeQueue = s.writeQueue := rfl
@[simp] theorem toneStep_tickAccumulator (s : State) : (toneStep s).tickAccumulator = s.tickAccumulator := rfl
@[simp] theorem toneStep_recorded (s : State) : (toneStep s).recorded = s.recorded := rfl
@[simp] theorem toneStep_tonePhaseAcc (s : State) (i : Chan) : (toneStep s).synth.tonePhaseAcc.get i =
    s.synth.tonePhaseAcc.get i + s.regs.shiftedIncrement.get i := by simp [toneStep]
@[simp] theorem toneStep_noisePhaseAcc (s : State) : (toneStep s).synth.noisePhaseAcc = s.synth.noisePhaseAcc := rfl
@[simp] theorem toneStep_noiseLFSR (s : State) : (toneStep s).synth.noiseLFSR = s.synth.noiseLFSR := rfl
@[simp] theorem toneStep_noiseMask (s : State) : (toneStep s).synth.noiseMask = s.synth.noiseMask := rfl
@[simp] theorem toneStep_envPhaseAcc (s : State) : (toneStep s).synth.envPhaseAcc = s.synth.envPhaseAcc := rfl
@[simp] theorem toneStep_envState (s : State) : (toneStep s).synth.envState = s.synth.envState := rfl
@[simp] theorem toneStep_envSmpVolume (s : State) : (toneStep s).synth.envSmpVolume = s.synth.envSmpVolume := rfl
@[simp] theorem toneStep_envHalted (s : State) : (toneStep s).synth.envHalted = s.synth.envHalted := rfl
@[simp] theorem toneStep_envSlope (s : State) : (toneStep s).synth.envSlope = s.synth.envSlope := rfl

/-- All a noise step can do: accumulate, and on a wrap advance the LFSR and set the mask (R214 to R216). -/
theorem noiseStep_cases (s : State) :
    (noiseWrapped (s.synth.noisePhaseAcc + s.regs.noiseShiftedIncrement) s.regs.noiseShiftedIncrement = false ∧
      noiseStep s = { s with synth := { s.synth with
        noisePhaseAcc := s.synth.noisePhaseAcc + s.regs.noiseShiftedIncrement } }) ∨
    (noiseWrapped (s.synth.noisePhaseAcc + s.regs.noiseShiftedIncrement) s.regs.noiseShiftedIncrement = true ∧
      noiseStep s = { s with synth := { s.synth with
        noisePhaseAcc := s.synth.noisePhaseAcc + s.regs.noiseShiftedIncrement
        noiseLFSR := lfsrNext s.synth.noiseLFSR s.regs.noiseXorTap
        noiseMask := noiseMaskOf (s.synth.noiseLFSR.getLsbD 0) } }) := by
  cases h : noiseWrapped (s.synth.noisePhaseAcc + s.regs.noiseShiftedIncrement) s.regs.noiseShiftedIncrement
  · exact .inl ⟨rfl, by simp [noiseStep, noiseAccumulate, h]⟩
  · exact .inr ⟨rfl, by simp [noiseStep, noiseAccumulate, lfsrAdvance, h]⟩

@[simp] theorem noiseStep_regs (s : State) : (noiseStep s).regs = s.regs := by
  rcases noiseStep_cases s with ⟨-, h⟩ | ⟨-, h⟩ <;> rw [h]
@[simp] theorem noiseStep_out (s : State) : (noiseStep s).out = s.out := by
  rcases noiseStep_cases s with ⟨-, h⟩ | ⟨-, h⟩ <;> rw [h]
@[simp] theorem noiseStep_settings (s : State) : (noiseStep s).settings = s.settings := by
  rcases noiseStep_cases s with ⟨-, h⟩ | ⟨-, h⟩ <;> rw [h]
@[simp] theorem noiseStep_params (s : State) : (noiseStep s).params = s.params := by
  rcases noiseStep_cases s with ⟨-, h⟩ | ⟨-, h⟩ <;> rw [h]
@[simp] theorem noiseStep_clockCycle (s : State) : (noiseStep s).clockCycle = s.clockCycle := by
  rcases noiseStep_cases s with ⟨-, h⟩ | ⟨-, h⟩ <;> rw [h]
@[simp] theorem noiseStep_writeQueue (s : State) : (noiseStep s).writeQueue = s.writeQueue := by
  rcases noiseStep_cases s with ⟨-, h⟩ | ⟨-, h⟩ <;> rw [h]
@[simp] theorem noiseStep_tickAccumulator (s : State) : (noiseStep s).tickAccumulator = s.tickAccumulator := by
  rcases noiseStep_cases s with ⟨-, h⟩ | ⟨-, h⟩ <;> rw [h]
@[simp] theorem noiseStep_recorded (s : State) : (noiseStep s).recorded = s.recorded := by
  rcases noiseStep_cases s with ⟨-, h⟩ | ⟨-, h⟩ <;> rw [h]
@[simp] theorem noiseStep_noisePhaseAcc (s : State) : (noiseStep s).synth.noisePhaseAcc =
    s.synth.noisePhaseAcc + s.regs.noiseShiftedIncrement := by
  rcases noiseStep_cases s with ⟨-, h⟩ | ⟨-, h⟩ <;> rw [h]
@[simp] theorem noiseStep_tonePhaseAcc (s : State) : (noiseStep s).synth.tonePhaseAcc = s.synth.tonePhaseAcc := by
  rcases noiseStep_cases s with ⟨-, h⟩ | ⟨-, h⟩ <;> rw [h]
@[simp] theorem noiseStep_envPhaseAcc (s : State) : (noiseStep s).synth.envPhaseAcc = s.synth.envPhaseAcc := by
  rcases noiseStep_cases s with ⟨-, h⟩ | ⟨-, h⟩ <;> rw [h]
@[simp] theorem noiseStep_envState (s : State) : (noiseStep s).synth.envState = s.synth.envState := by
  rcases noiseStep_cases s with ⟨-, h⟩ | ⟨-, h⟩ <;> rw [h]
@[simp] theorem noiseStep_envSmpVolume (s : State) : (noiseStep s).synth.envSmpVolume = s.synth.envSmpVolume := by
  rcases noiseStep_cases s with ⟨-, h⟩ | ⟨-, h⟩ <;> rw [h]
@[simp] theorem noiseStep_envHalted (s : State) : (noiseStep s).synth.envHalted = s.synth.envHalted := by
  rcases noiseStep_cases s with ⟨-, h⟩ | ⟨-, h⟩ <;> rw [h]
@[simp] theorem noiseStep_envSlope (s : State) : (noiseStep s).synth.envSlope = s.synth.envSlope := by
  rcases noiseStep_cases s with ⟨-, h⟩ | ⟨-, h⟩ <;> rw [h]

/-- All an envelope update can do: nothing if halted, else the new values of its own generator (R230, R237). -/
theorem envUpdate_cases (g : Gen) (s : State) :
    (s.synth.envHalted.get g = true ∧ envUpdate g s = s) ∨
    (s.synth.envHalted.get g = false ∧ envUpdate g s = { s with synth := { s.synth with
      envPhaseAcc := s.synth.envPhaseAcc.set g (envNextPhase g s)
      envState := s.synth.envState.set g (envNextState g s)
      envSmpVolume := s.synth.envSmpVolume.set g (envNextVolume g s)
      envSlope := s.synth.envSlope.set g (envNextSlope g s)
      envHalted := s.synth.envHalted.set g (envHolds g s) } }) := by
  cases h : s.synth.envHalted.get g
  · exact .inr ⟨rfl, by simp [envUpdate, h]⟩
  · exact .inl ⟨rfl, by simp [envUpdate, h]⟩

@[simp] theorem envUpdate_regs (g : Gen) (s : State) : (envUpdate g s).regs = s.regs := by
  rcases envUpdate_cases g s with ⟨-, h⟩ | ⟨-, h⟩ <;> rw [h]
@[simp] theorem envUpdate_out (g : Gen) (s : State) : (envUpdate g s).out = s.out := by
  rcases envUpdate_cases g s with ⟨-, h⟩ | ⟨-, h⟩ <;> rw [h]
@[simp] theorem envUpdate_settings (g : Gen) (s : State) : (envUpdate g s).settings = s.settings := by
  rcases envUpdate_cases g s with ⟨-, h⟩ | ⟨-, h⟩ <;> rw [h]
@[simp] theorem envUpdate_params (g : Gen) (s : State) : (envUpdate g s).params = s.params := by
  rcases envUpdate_cases g s with ⟨-, h⟩ | ⟨-, h⟩ <;> rw [h]
@[simp] theorem envUpdate_clockCycle (g : Gen) (s : State) : (envUpdate g s).clockCycle = s.clockCycle := by
  rcases envUpdate_cases g s with ⟨-, h⟩ | ⟨-, h⟩ <;> rw [h]
@[simp] theorem envUpdate_writeQueue (g : Gen) (s : State) : (envUpdate g s).writeQueue = s.writeQueue := by
  rcases envUpdate_cases g s with ⟨-, h⟩ | ⟨-, h⟩ <;> rw [h]
@[simp] theorem envUpdate_tickAccumulator (g : Gen) (s : State) : (envUpdate g s).tickAccumulator = s.tickAccumulator := by
  rcases envUpdate_cases g s with ⟨-, h⟩ | ⟨-, h⟩ <;> rw [h]
@[simp] theorem envUpdate_recorded (g : Gen) (s : State) : (envUpdate g s).recorded = s.recorded := by
  rcases envUpdate_cases g s with ⟨-, h⟩ | ⟨-, h⟩ <;> rw [h]
@[simp] theorem envUpdate_tonePhaseAcc (g : Gen) (s : State) :
    (envUpdate g s).synth.tonePhaseAcc = s.synth.tonePhaseAcc := by
  rcases envUpdate_cases g s with ⟨-, h⟩ | ⟨-, h⟩ <;> rw [h]
@[simp] theorem envUpdate_noisePhaseAcc (g : Gen) (s : State) :
    (envUpdate g s).synth.noisePhaseAcc = s.synth.noisePhaseAcc := by
  rcases envUpdate_cases g s with ⟨-, h⟩ | ⟨-, h⟩ <;> rw [h]
@[simp] theorem envUpdate_noiseLFSR (g : Gen) (s : State) : (envUpdate g s).synth.noiseLFSR = s.synth.noiseLFSR := by
  rcases envUpdate_cases g s with ⟨-, h⟩ | ⟨-, h⟩ <;> rw [h]
@[simp] theorem envUpdate_noiseMask (g : Gen) (s : State) : (envUpdate g s).synth.noiseMask = s.synth.noiseMask := by
  rcases envUpdate_cases g s with ⟨-, h⟩ | ⟨-, h⟩ <;> rw [h]

@[simp] theorem mixChannels_regs (b : PerChan Bool) (s : State) : (mixChannels b s).regs = s.regs := rfl
@[simp] theorem mixChannels_synth (b : PerChan Bool) (s : State) : (mixChannels b s).synth = s.synth := rfl
@[simp] theorem mixChannels_settings (b : PerChan Bool) (s : State) : (mixChannels b s).settings = s.settings := rfl
@[simp] theorem mixChannels_params (b : PerChan Bool) (s : State) : (mixChannels b s).params = s.params := rfl
@[simp] theorem mixChannels_clockCycle (b : PerChan Bool) (s : State) : (mixChannels b s).clockCycle = s.clockCycle := rfl
@[simp] theorem mixChannels_writeQueue (b : PerChan Bool) (s : State) : (mixChannels b s).writeQueue = s.writeQueue := rfl
@[simp] theorem mixChannels_tickAccumulator (b : PerChan Bool) (s : State) :
    (mixChannels b s).tickAccumulator = s.tickAccumulator := rfl
@[simp] theorem mixChannels_recorded (b : PerChan Bool) (s : State) : (mixChannels b s).recorded = s.recorded := rfl
@[simp] theorem mixChannels_channelOutput (b : PerChan Bool) (s : State) (i : Chan) :
    (mixChannels b s).out.channelOutput.get i = chanSample (b.get i) i s := by simp [mixChannels]
@[simp] theorem mixChannels_delayRing (b : PerChan Bool) (s : State) :
    (mixChannels b s).out.delayRing = s.out.delayRing := rfl
@[simp] theorem mixChannels_currentOutput (b : PerChan Bool) (s : State) :
    (mixChannels b s).out.currentOutput = s.out.currentOutput := rfl

@[simp] theorem pushDelay_regs (s : State) : (pushDelay s).regs = s.regs := rfl
@[simp] theorem pushDelay_synth (s : State) : (pushDelay s).synth = s.synth := rfl
@[simp] theorem pushDelay_settings (s : State) : (pushDelay s).settings = s.settings := rfl
@[simp] theorem pushDelay_params (s : State) : (pushDelay s).params = s.params := rfl
@[simp] theorem pushDelay_clockCycle (s : State) : (pushDelay s).clockCycle = s.clockCycle := rfl
@[simp] theorem pushDelay_writeQueue (s : State) : (pushDelay s).writeQueue = s.writeQueue := rfl
@[simp] theorem pushDelay_tickAccumulator (s : State) : (pushDelay s).tickAccumulator = s.tickAccumulator := rfl
@[simp] theorem pushDelay_recorded (s : State) : (pushDelay s).recorded = s.recorded := rfl
@[simp] theorem pushDelay_channelOutput (s : State) : (pushDelay s).out.channelOutput = s.out.channelOutput := rfl
@[simp] theorem pushDelay_currentOutput (s : State) : (pushDelay s).out.currentOutput = s.out.currentOutput := rfl
@[simp] theorem pushDelay_delayRing (s : State) : (pushDelay s).out.delayRing =
    s.out.delayRing.set (period s + delaySlots outputDelay) (mixedSample s) := rfl

@[simp] theorem pwmStage_regs (s : State) : (pwmStage s).regs = s.regs := rfl
@[simp] theorem pwmStage_synth (s : State) : (pwmStage s).synth = s.synth := rfl
@[simp] theorem pwmStage_settings (s : State) : (pwmStage s).settings = s.settings := rfl
@[simp] theorem pwmStage_params (s : State) : (pwmStage s).params = s.params := rfl
@[simp] theorem pwmStage_clockCycle (s : State) : (pwmStage s).clockCycle = s.clockCycle := rfl
@[simp] theorem pwmStage_writeQueue (s : State) : (pwmStage s).writeQueue = s.writeQueue := rfl
@[simp] theorem pwmStage_tickAccumulator (s : State) : (pwmStage s).tickAccumulator = s.tickAccumulator := rfl
@[simp] theorem pwmStage_recorded (s : State) : (pwmStage s).recorded = s.recorded := rfl
@[simp] theorem pwmStage_channelOutput (s : State) : (pwmStage s).out.channelOutput = s.out.channelOutput := rfl
@[simp] theorem pwmStage_delayRing (s : State) : (pwmStage s).out.delayRing = s.out.delayRing := rfl
@[simp] theorem pwmStage_currentOutput (s : State) : (pwmStage s).out.currentOutput = pwmOutput s := rfl

/-- All a record can do: append the output, or nothing. -/
theorem recordOutput_eq (s : State) : recordOutput s =
    { s with recorded := s.recorded ++ if s.settings.quality = .mean then [s.out.currentOutput] else [] } := by
  unfold recordOutput
  cases h : s.settings.quality <;> simp

@[simp] theorem recordOutput_regs (s : State) : (recordOutput s).regs = s.regs := by rw [recordOutput_eq]
@[simp] theorem recordOutput_synth (s : State) : (recordOutput s).synth = s.synth := by rw [recordOutput_eq]
@[simp] theorem recordOutput_out (s : State) : (recordOutput s).out = s.out := by rw [recordOutput_eq]
@[simp] theorem recordOutput_settings (s : State) : (recordOutput s).settings = s.settings := by rw [recordOutput_eq]
@[simp] theorem recordOutput_params (s : State) : (recordOutput s).params = s.params := by rw [recordOutput_eq]
@[simp] theorem recordOutput_clockCycle (s : State) : (recordOutput s).clockCycle = s.clockCycle := by
  rw [recordOutput_eq]
@[simp] theorem recordOutput_writeQueue (s : State) : (recordOutput s).writeQueue = s.writeQueue := by
  rw [recordOutput_eq]
@[simp] theorem recordOutput_tickAccumulator (s : State) : (recordOutput s).tickAccumulator = s.tickAccumulator := by
  rw [recordOutput_eq]

@[simp] theorem advanceClock_regs (s : State) : (advanceClock s).regs = s.regs := rfl
@[simp] theorem advanceClock_synth (s : State) : (advanceClock s).synth = s.synth := rfl
@[simp] theorem advanceClock_out (s : State) : (advanceClock s).out = s.out := rfl
@[simp] theorem advanceClock_settings (s : State) : (advanceClock s).settings = s.settings := rfl
@[simp] theorem advanceClock_params (s : State) : (advanceClock s).params = s.params := rfl
@[simp] theorem advanceClock_clockCycle (s : State) : (advanceClock s).clockCycle = s.clockCycle + 1 := rfl
@[simp] theorem advanceClock_writeQueue (s : State) : (advanceClock s).writeQueue = s.writeQueue := rfl
@[simp] theorem advanceClock_tickAccumulator (s : State) : (advanceClock s).tickAccumulator = s.tickAccumulator := rfl
@[simp] theorem advanceClock_recorded (s : State) : (advanceClock s).recorded = s.recorded := rfl

end Sys2Proof.Machine
end

