-- ==== Sys2Proof/Laws/Ops.lean ====
section
/-! SUPPORT. For each shared operation of Machine/Ops.lean that branches, one lemma that says all it can do. -/

namespace Sys2Proof.Machine

/-- All an octave field's write can do: nothing where the octave is the same, else the octave and its step (R136). -/
theorem setToneOctave_cases (i : Chan) (o : BitVec 3) (s : State) :
    (o = s.regs.toneOctave.get i ∧ setToneOctave i o s = s) ∨
    (o ≠ s.regs.toneOctave.get i ∧ setToneOctave i o s = { s with regs := { s.regs with
      toneOctave := s.regs.toneOctave.set i o
      shiftedIncrement := s.regs.shiftedIncrement.set i (pitchShift (s.regs.toneIncrement.get i) o) } }) := by
  by_cases h : o = s.regs.toneOctave.get i
  · exact .inl ⟨h, if_pos h⟩
  · exact .inr ⟨h, if_neg h⟩

/-- All the noise octave's write can do (R138). -/
theorem setNoiseOctave_cases (o : BitVec 3) (s : State) :
    (o = s.regs.noiseOctave ∧ setNoiseOctave o s = s) ∨
    (o ≠ s.regs.noiseOctave ∧ setNoiseOctave o s = { s with regs := { s.regs with
      noiseOctave := o
      noiseShiftedIncrement := pitchShift s.regs.noiseIncrement o } }) := by
  by_cases h : o = s.regs.noiseOctave
  · exact .inl ⟨h, if_pos h⟩
  · exact .inr ⟨h, if_neg h⟩

/-- All an envelope octave's write can do (R199). -/
theorem setEnvOctave_cases (g : Gen) (o : BitVec 4) (s : State) :
    (o = s.regs.envOctave.get g ∧ setEnvOctave g o s = s) ∨
    (o ≠ s.regs.envOctave.get g ∧ setEnvOctave g o s = { s with regs := { s.regs with
      envOctave := s.regs.envOctave.set g o
      envShiftedIncrement := s.regs.envShiftedIncrement.set g (envShift (s.regs.envIncrement.get g) o) } }) := by
  by_cases h : o = s.regs.envOctave.get g
  · exact .inl ⟨h, if_pos h⟩
  · exact .inr ⟨h, if_neg h⟩

/-- All a tone strobe can do (R96). -/
theorem strobeTonePhase_cases (i : Chan) (rst : Bool) (s : State) :
    (rst = false ∧ strobeTonePhase i rst s = s) ∨
    (rst = true ∧ strobeTonePhase i rst s =
      { s with synth := { s.synth with tonePhaseAcc := s.synth.tonePhaseAcc.set i 0 } }) := by
  cases rst
  · exact .inl ⟨rfl, rfl⟩
  · exact .inr ⟨rfl, rfl⟩

/-- All the noise strobe can do (R138). -/
theorem strobeNoisePhase_cases (rst : Bool) (s : State) :
    (rst = false ∧ strobeNoisePhase rst s = s) ∨
    (rst = true ∧ strobeNoisePhase rst s = { s with synth := { s.synth with noisePhaseAcc := 0 } }) := by
  cases rst
  · exact .inl ⟨rfl, rfl⟩
  · exact .inr ⟨rfl, rfl⟩

/-- All a shape write's reload of one generator can do (R195, R196). -/
theorem reloadEnvelope_cases (g : Gen) (d : Byte) (s : State) :
    (resetBit g d = false ∧ reloadEnvelope g d s = s) ∨
    (resetBit g d = true ∧ reloadEnvelope g d s = { s with synth := { s.synth with
      envState := s.synth.envState.set g (loadState s.regs.envLoadBuffer)
      envPhaseAcc := s.synth.envPhaseAcc.set g (loadPhase s.regs.envLoadBuffer)
      envHalted := s.synth.envHalted.set g false
      envSlope := s.synth.envSlope.set g (attackPolarity s.params (attackBit g d)) } }) := by
  cases h : resetBit g d
  · exact .inl ⟨rfl, by simp [reloadEnvelope, h]⟩
  · exact .inr ⟨rfl, by simp [reloadEnvelope, h]⟩

/-- All an enqueue can do: append, or drop at capacity (R110). -/
theorem pushWrite_cases (c : WriteCmd) (s : State) :
    (s.writeQueue.length < s.settings.writeQueueCapacity ∧
      pushWrite c s = { s with writeQueue := s.writeQueue ++ [c] }) ∨
    (s.settings.writeQueueCapacity ≤ s.writeQueue.length ∧ pushWrite c s = s) := by
  by_cases h : s.writeQueue.length < s.settings.writeQueueCapacity
  · exact .inl ⟨h, if_pos h⟩
  · exact .inr ⟨Nat.le_of_not_lt h, if_neg h⟩

/-- All a tone nibble's write can do: new octaves, steps and accumulators that differ only at its channel. -/
theorem writeToneNibble_spec (i : Chan) (o : BitVec 3) (rst : Bool) (s : State) :
    ∃ (oct : PerChan (BitVec 3)) (steps accs : PerChan Half),
      writeToneNibble i o rst s = { s with
        regs := { s.regs with toneOctave := oct, shiftedIncrement := steps }
        synth := { s.synth with tonePhaseAcc := accs } } ∧
      oct.get i = o ∧ (o = s.regs.toneOctave.get i → steps.get i = s.regs.shiftedIncrement.get i) ∧
      (o ≠ s.regs.toneOctave.get i →
        (steps.get i).toNat = (s.regs.toneIncrement.get i).toNat * 2 ^ (1 + o.toNat)) ∧
      accs.get i = (if rst then 0 else s.synth.tonePhaseAcc.get i) ∧
      ∀ j, j ≠ i → oct.get j = s.regs.toneOctave.get j ∧ steps.get j = s.regs.shiftedIncrement.get j ∧
        accs.get j = s.synth.tonePhaseAcc.get j := by
  unfold writeToneNibble
  rcases setToneOctave_cases i o s with ⟨h, e⟩ | ⟨h, e⟩ <;> rw [e] <;> cases rst
  · exact ⟨_, _, _, rfl, by simp [h]⟩
  · exact ⟨_, _, _, rfl, by simp +contextual [h, PerChan.get_set]⟩
  · exact ⟨_, _, _, rfl, by simp +contextual [h, PerChan.get_set, pitchShift_toNat]⟩
  · exact ⟨_, _, _, rfl, by simp +contextual [h, PerChan.get_set, pitchShift_toNat]⟩

/-- All the noise nibble's write can do. -/
theorem writeNoiseNibble_spec (o : BitVec 3) (rst : Bool) (s : State) : ∃ step acc : Half,
    writeNoiseNibble o rst s = { s with
      regs := { s.regs with noiseOctave := o, noiseShiftedIncrement := step }
      synth := { s.synth with noisePhaseAcc := acc } } ∧
    (o = s.regs.noiseOctave → step = s.regs.noiseShiftedIncrement) ∧
    (o ≠ s.regs.noiseOctave → step.toNat = s.regs.noiseIncrement.toNat * 2 ^ (1 + o.toNat)) ∧
    acc = (if rst then 0 else s.synth.noisePhaseAcc) := by
  unfold writeNoiseNibble
  rcases setNoiseOctave_cases o s with ⟨h, e⟩ | ⟨h, e⟩ <;> rw [e] <;> cases rst
  · exact ⟨_, _, by subst h; rfl, by simp [h]⟩
  · exact ⟨_, _, by subst h; rfl, by simp [h]⟩
  · exact ⟨_, _, rfl, by simp [h, pitchShift_toNat]⟩
  · exact ⟨_, _, rfl, by simp [h, pitchShift_toNat]⟩

end Sys2Proof.Machine
end

