-- ==== Sys2Proof/Laws/PerInstr.lean ====
section
/-! SUPPORT. The per-instruction family `AddressField`: the word of an instruction carries the instruction's address in
bits 14:8 and its data byte in bits 7:0 (R90). -/

namespace Sys2Proof.Laws.AddressField

/-- Bits 14:8 and 7:0 of the instruction's word. -/
def Statement (i : Instr) : Prop := wordAddr (encode i) = i.address ∧ wordData (encode i) = i.dataByte

theorem all (i : Instr) : Statement i := ⟨wordAddr_word i.cmd, wordData_word i.cmd⟩

theorem wTinc0 (d : Byte) : Statement (.wTinc0 d) := all _
theorem wTinc1 (d : Byte) : Statement (.wTinc1 d) := all _
theorem wTinc2 (d : Byte) : Statement (.wTinc2 d) := all _
theorem wTinc3 (d : Byte) : Statement (.wTinc3 d) := all _
theorem wTinc4 (d : Byte) : Statement (.wTinc4 d) := all _
theorem wNinc (d : Byte) : Statement (.wNinc d) := all _
theorem wOct01 (o : BitVec 3) (r : Bool) (p : BitVec 3) (q : Bool) : Statement (.wOct01 o r p q) := all _
theorem wOct23 (o : BitVec 3) (r : Bool) (p : BitVec 3) (q : Bool) : Statement (.wOct23 o r p q) := all _
theorem wOct4n (o : BitVec 3) (r : Bool) (p : BitVec 3) (q : Bool) : Statement (.wOct4n o r p q) := all _
theorem wDuty0 (d : Byte) : Statement (.wDuty0 d) := all _
theorem wDuty1 (d : Byte) : Statement (.wDuty1 d) := all _
theorem wDuty2 (d : Byte) : Statement (.wDuty2 d) := all _
theorem wDuty3 (d : Byte) : Statement (.wDuty3 d) := all _
theorem wDuty4 (d : Byte) : Statement (.wDuty4 d) := all _
theorem wNtapl (d : Byte) : Statement (.wNtapl d) := all _
theorem wNtaph (d : Byte) : Statement (.wNtaph d) := all _
theorem wVol0 (d : Byte) : Statement (.wVol0 d) := all _
theorem wVol1 (d : Byte) : Statement (.wVol1 d) := all _
theorem wVol2 (d : Byte) : Statement (.wVol2 d) := all _
theorem wVol3 (d : Byte) : Statement (.wVol3 d) := all _
theorem wVol4 (d : Byte) : Statement (.wVol4 d) := all _
theorem wCfg0 (d : Byte) : Statement (.wCfg0 d) := all _
theorem wCfg1 (d : Byte) : Statement (.wCfg1 d) := all _
theorem wCfg2 (d : Byte) : Statement (.wCfg2 d) := all _
theorem wCfg3 (d : Byte) : Statement (.wCfg3 d) := all _
theorem wCfg4 (d : Byte) : Statement (.wCfg4 d) := all _
theorem wEldl (d : Byte) : Statement (.wEldl d) := all _
theorem wEldh (d : Byte) : Statement (.wEldh d) := all _
theorem wEshape (d : Byte) : Statement (.wEshape d) := all _
theorem wEinca (d : Byte) : Statement (.wEinca d) := all _
theorem wEincb (d : Byte) : Statement (.wEincb d) := all _
theorem wEoct (a b : BitVec 4) : Statement (.wEoct a b) := all _
theorem wRsvd32To63 (a : Addr) (d : Byte) : Statement (.wRsvd32To63 a d) := all _
theorem wRsvd64To127 (a : Addr) (d : Byte) : Statement (.wRsvd64To127 a d) := all _

end Sys2Proof.Laws.AddressField
end

