-- ==== Sys2Proof/Laws/Update.lean ====
section
/-! SUPPORT. What the update cycle as a whole reads and leaves, and the envelope update as numbers. -/

namespace Sys2Proof.Machine

@[simp] theorem updateCycle_regs (s : State) : (updateCycle s).regs = s.regs := by simp [updateCycle]
@[simp] theorem updateCycle_settings (s : State) : (updateCycle s).settings = s.settings := by simp [updateCycle]
@[simp] theorem updateCycle_params (s : State) : (updateCycle s).params = s.params := by simp [updateCycle]
@[simp] theorem updateCycle_clockCycle (s : State) : (updateCycle s).clockCycle = s.clockCycle := by simp [updateCycle]
@[simp] theorem updateCycle_writeQueue (s : State) : (updateCycle s).writeQueue = s.writeQueue := by simp [updateCycle]
@[simp] theorem updateCycle_tickAccumulator (s : State) : (updateCycle s).tickAccumulator = s.tickAccumulator := by
  simp [updateCycle]
@[simp] theorem updateCycle_recorded (s : State) : (updateCycle s).recorded = s.recorded := by simp [updateCycle]
@[simp] theorem updateCycle_currentOutput (s : State) : (updateCycle s).out.currentOutput = s.out.currentOutput := by
  simp [updateCycle]

theorem updateCycle_synth (s : State) :
    (updateCycle s).synth = (envUpdate .B (envUpdate .A (noiseStep (toneStep s)))).synth := rfl

theorem updateCycle_delayRing (s : State) : (updateCycle s).out.delayRing =
    s.out.delayRing.set (period s + 1) (mixedSample (mixChannels (toneBits (toneStep s))
      (envUpdate .B (envUpdate .A (noiseStep (toneStep s)))))) := by
  simp [updateCycle, period, delaySlots, outputDelay]

/-- R258: either latency the source names is one slot. -/
theorem delaySlots_of_either_latency : delaySlots 256 = 1 ∧ delaySlots 512 = 1 := by decide

/-- What an envelope update reads: two states that agree on it give the generator the same new values. -/
structure EnvAgree (g : Gen) (s t : State) : Prop where
  step : t.regs.envShiftedIncrement.get g = s.regs.envShiftedIncrement.get g
  octave : t.regs.envOctave.get g = s.regs.envOctave.get g
  shape : t.regs.envShape = s.regs.envShape
  phase : t.synth.envPhaseAcc.get g = s.synth.envPhaseAcc.get g
  state : t.synth.envState.get g = s.synth.envState.get g
  volume : t.synth.envSmpVolume.get g = s.synth.envSmpVolume.get g
  slope : t.synth.envSlope.get g = s.synth.envSlope.get g
  halted : t.synth.envHalted.get g = s.synth.envHalted.get g

theorem EnvAgree.carry {g : Gen} {s t : State} (h : EnvAgree g s t) : envCarry g t = envCarry g s := by
  simp [envCarry, envScratch, envStep, h.step, h.octave, h.phase]

theorem EnvAgree.boundary {g : Gen} {s t : State} (h : EnvAgree g s t) : envBoundary g t = envBoundary g s := by
  simp [envBoundary, envNextState, h.carry, h.state]

/-- The envelope update of `g` depends on nothing but what it reads. -/
theorem EnvAgree.update {g : Gen} {s t : State} (h : EnvAgree g s t) : EnvSame g (envUpdate g s) (envUpdate g t) := by
  have hp : envNextPhase g t = envNextPhase g s := by
    simp [envNextPhase, envScratch, envStep, h.step, h.octave, h.phase]
  have hs : envNextState g t = envNextState g s := by simp [envNextState, h.carry, h.state]
  have hl : envNextSlope g t = envNextSlope g s := by simp [envNextSlope, h.boundary, h.shape, h.slope]
  have hh : envHolds g t = envHolds g s := by simp [envHolds, h.boundary, h.shape]
  have hv : envNextVolume g t = envNextVolume g s := by
    simp [envNextVolume, envLoaded, h.carry, h.volume, hl, hh, hs]
  rcases envUpdate_cases g s with ⟨k, e⟩ | ⟨k, e⟩ <;> rcases envUpdate_cases g t with ⟨k', e'⟩ | ⟨k', e'⟩
  · rw [e, e']
    exact ⟨h.phase, h.state, h.volume, h.slope, h.halted⟩
  · simp [h.halted, k] at k'
  · simp [h.halted, k] at k'
  · rw [e, e']
    simp [EnvSame, hp, hs, hv, hl, hh]

/-- The update of one generator leaves the other. -/
theorem envUpdate_other {g k : Gen} (h : k ≠ g) (s : State) : EnvSame k s (envUpdate g s) := by
  rcases envUpdate_cases g s with ⟨-, e⟩ | ⟨-, e⟩
  · rw [e]
    exact ⟨rfl, rfl, rfl, rfl, rfl⟩
  · rw [e]
    simp [EnvSame, PerGen.get_set_ne _ _ h]

/-- R231: the step is the cached increment, shifted by 8 more for the high octaves, without loss. -/
theorem envStep_toNat (g : Gen) (s : State) (h : (s.regs.envShiftedIncrement.get g).toNat ≤ 0xFF00) :
    (envStep g s).toNat = envAmount g s ∧ envAmount g s ≤ 0xFF0000 := by
  unfold envStep envAmount envHighOctave
  rw [BitVec.toNat_shiftLeft, BitVec.toNat_setWidth, Nat.shiftLeft_eq,
    Nat.mod_eq_of_lt (a := (s.regs.envShiftedIncrement.get g).toNat) (by omega)]
  cases (s.regs.envOctave.get g).getLsbD 3 <;> simp <;> omega

/-- R232: the widened sum, its carry byte and its low half, as numbers. -/
theorem envScratch_toNat (g : Gen) (s : State) (h : (s.regs.envShiftedIncrement.get g).toNat ≤ 0xFF00) :
    (envScratch g s).toNat = (s.synth.envPhaseAcc.get g).toNat + envAmount g s ∧
    (envCarry g s).toNat = ((s.synth.envPhaseAcc.get g).toNat + envAmount g s) / 2 ^ 16 ∧
    (envNextPhase g s).toNat = ((s.synth.envPhaseAcc.get g).toNat + envAmount g s) % 2 ^ 16 := by
  obtain ⟨h1, h2⟩ := envStep_toNat g s h
  have hp := (s.synth.envPhaseAcc.get g).isLt
  have hs : (envScratch g s).toNat = (s.synth.envPhaseAcc.get g).toNat + envAmount g s := by
    unfold envScratch
    rw [BitVec.toNat_add, BitVec.toNat_setWidth, h1, Nat.mod_eq_of_lt (a := (s.synth.envPhaseAcc.get g).toNat) (by omega)]
    omega
  refine ⟨hs, ?_, ?_⟩
  · simp only [envCarry, BitVec.extractLsb'_toNat, hs, Nat.shiftRight_eq_div_pow]
    omega
  · simp only [envNextPhase, BitVec.extractLsb'_toNat, hs, Nat.shiftRight_zero]

/-- R33: the bound the invariant gives the cached envelope step. -/
theorem Inv.envStep_le {s : State} (h : Inv s) (g : Gen) : (s.regs.envShiftedIncrement.get g).toNat ≤ 0xFF00 := by
  rw [h.envSteps g]
  have hi := (s.regs.envIncrement.get g).isLt
  have hp : 2 ^ (1 + (s.regs.envOctave.get g).toNat % 8) ≤ 2 ^ 8 :=
    Nat.pow_le_pow_right (by omega) (by omega)
  calc (s.regs.envIncrement.get g).toNat * 2 ^ (1 + (s.regs.envOctave.get g).toNat % 8)
      ≤ 255 * 2 ^ 8 := Nat.mul_le_mul (by omega) hp
    _ = 0xFF00 := by norm_num

end Sys2Proof.Machine
end

