-- ==== Sys2Proof/Laws/Step.lean ====
section
/-! SUPPORT. What a tick can do, said once, and runs of ticks. -/

namespace Sys2Proof.Machine

@[simp] theorem updateIfDue_regs (s : State) : (updateIfDue s).regs = s.regs := by unfold updateIfDue; split <;> simp
@[simp] theorem updateIfDue_settings (s : State) : (updateIfDue s).settings = s.settings := by
  unfold updateIfDue; split <;> simp
@[simp] theorem updateIfDue_params (s : State) : (updateIfDue s).params = s.params := by
  unfold updateIfDue; split <;> simp
@[simp] theorem updateIfDue_clockCycle (s : State) : (updateIfDue s).clockCycle = s.clockCycle := by
  unfold updateIfDue; split <;> simp
@[simp] theorem updateIfDue_writeQueue (s : State) : (updateIfDue s).writeQueue = s.writeQueue := by
  unfold updateIfDue; split <;> simp
@[simp] theorem updateIfDue_tickAccumulator (s : State) : (updateIfDue s).tickAccumulator = s.tickAccumulator := by
  unfold updateIfDue; split <;> simp
@[simp] theorem updateIfDue_recorded (s : State) : (updateIfDue s).recorded = s.recorded := by
  unfold updateIfDue; split <;> simp

@[simp] theorem finishTick_regs (s : State) : (finishTick s).regs = s.regs := by simp [finishTick]
@[simp] theorem finishTick_synth (s : State) : (finishTick s).synth = (updateIfDue s).synth := by simp [finishTick]
@[simp] theorem finishTick_settings (s : State) : (finishTick s).settings = s.settings := by simp [finishTick]
@[simp] theorem finishTick_params (s : State) : (finishTick s).params = s.params := by simp [finishTick]
@[simp] theorem finishTick_clockCycle (s : State) : (finishTick s).clockCycle = s.clockCycle + 1 := by simp [finishTick]
@[simp] theorem finishTick_writeQueue (s : State) : (finishTick s).writeQueue = s.writeQueue := by simp [finishTick]
@[simp] theorem finishTick_tickAccumulator (s : State) : (finishTick s).tickAccumulator = s.tickAccumulator := by
  simp [finishTick]
@[simp] theorem finishTick_channelOutput (s : State) :
    (finishTick s).out.channelOutput = (updateIfDue s).out.channelOutput := by simp [finishTick]
@[simp] theorem finishTick_delayRing (s : State) : (finishTick s).out.delayRing = (updateIfDue s).out.delayRing := by
  simp [finishTick]
@[simp] theorem finishTick_currentOutput (s : State) : (finishTick s).out.currentOutput = pwmOutput (updateIfDue s) := by
  simp [finishTick]
theorem finishTick_recorded (s : State) : (finishTick s).recorded =
    s.recorded ++ if s.settings.quality = .mean then [(finishTick s).out.currentOutput] else [] := by
  simp [finishTick, recordOutput_eq]

/-- All a drain can do: nothing, or run the oldest write's instruction on the state without it (R112). -/
theorem drain_cases (s : State) :
    (s.writeQueue = [] ∧ drain s = .next s) ∨
    ∃ c rest, s.writeQueue = c :: rest ∧ drain s = exec (decodeWord c.word) { s with writeQueue := rest } := by
  cases h : s.writeQueue with
  | nil => exact .inl ⟨rfl, by simp [drain, popWrite, h]⟩
  | cons c rest => exact .inr ⟨c, rest, rfl, by simp [drain, popWrite, h, WriteCmd.instr]⟩

/-- A step that answers a next state has drained to some state and finished the tick from it. -/
theorem step_next {s t : State} (h : step s = .next t) : ∃ u, drain s = .next u ∧ t = finishTick u := by
  unfold step tick at h
  split at h
  · next u hu => exact ⟨u, hu, by cases h; rfl⟩
  · cases h
  · cases h

theorem step_of_drain {s u : State} (h : drain s = .next u) : step s = .next (finishTick u) := by
  simp [step, tick, h]

theorem runTicks_succ_of_step {s t : State} (n : Nat) (h : step s = .next t) : runTicks (n + 1) s = runTicks n t := by
  simp [runTicks, h]

/-- A run of `m + n` ticks is a run of `m` and then of `n`. -/
theorem runTicks_add {s t : State} {m : Nat} (n : Nat) (h : runTicks m s = .next t) :
    runTicks (m + n) s = runTicks n t := by
  induction m generalizing s with
  | zero =>
    simp only [runTicks] at h
    cases h
    simp
  | succ m ih =>
    rw [Nat.add_right_comm]
    simp only [runTicks] at h ⊢
    split at h
    · next u hu => simpa [hu] using ih h
    · cases h
    · cases h

/-- The runs of produceSample are the host's runs of `step`. -/
theorem runTicks_eq_run (n : Nat) (s : State) : runTicks n s = Host.Core.run Sys2Proof.core n s := by
  induction n generalizing s with
  | zero => rfl
  | succ n ih =>
    cases h : step s with
    | next t =>
      have h' : Sys2Proof.core.step s = .next t := h
      simp only [runTicks, Host.Core.run, h, h', ih]
      rfl
    | fault f => cases f
    | refused r =>
      have h' : Sys2Proof.core.step s = .refused r := h
      simp only [runTicks, Host.Core.run, h, h']
      rfl

/-- A property that every step keeps holds after every run. -/
theorem runTicks_keeps {P : State → Prop} (hstep : ∀ s t, P s → step s = .next t → P t) {n : Nat} {s t : State}
    (hs : P s) (h : runTicks n s = .next t) : P t := by
  induction n generalizing s with
  | zero => simp only [runTicks] at h; cases h; exact hs
  | succ n ih =>
    simp only [runTicks] at h
    split at h
    · next u hu => exact ih (hstep s u hs hu) h
    · cases h
    · cases h

end Sys2Proof.Machine
end

