-- ==== Sys2Proof/Tests/Slice0.lean ====
section
/-! SUPPORT. The model's own tests: ill-formed terms refused, words written out from spec/30_encoding.md, vectors of
spec/95_test_vectors.md, and for every statement with hypotheses one concrete state and operands that meet them. -/

namespace Sys2Proof.Tests

open Sys2Proof Sys2Proof.Machine

/-! ### Small states -/

/-- The illustrative mixer set P0 of R256 (spec/95_test_vectors.md section 0). -/
def p0 : Params := ⟨205, 20, [], true, false⟩

/-- The create state of the spec's programs: `create(5120, 10, APPROX, 8)`. -/
def start : State := State.created ⟨5120, 10, .approx, 8, 8, p0⟩ true

/-- One tick per sample. -/
def unitRatio : State := State.created ⟨1, 1, .approx, 8, 8, p0⟩ true

/-- A third of a tick per sample. -/
def thirdRatio : State := State.created ⟨1, 3, .approx, 8, 8, p0⟩ true

/-- Apply the write a word stands for. -/
def after (w : Nat) (s : State) : State :=
  match decode w with
  | .ok i =>
    match exec i s with
    | .next t => t
    | .fault _ => s
    | .refused _ => s
  | .error _ => s

/-- Envelope A at 0x40 << 16 a step, octave 15, in the given shape, with slope set. -/
def ramp (shape state volume : Byte) : State :=
  { start with
    regs := { start.regs with
      envShape := shape
      envOctave := start.regs.envOctave.set .A 15
      envIncrement := start.regs.envIncrement.set .A 0x40
      envShiftedIncrement := start.regs.envShiftedIncrement.set .A 0x4000 }
    synth := { start.synth with
      envState := start.synth.envState.set .A state
      envSmpVolume := start.synth.envSmpVolume.set .A volume
      envSlope := start.synth.envSlope.set .A true } }

/-- The outcome is a next state. -/
def isNext {α : Type} : Host.Outcome α Fault Refusal → Bool
  | .next _ => true
  | .fault _ => false
  | .refused _ => false

theorem exists_of_isNext {α : Type} {o : Host.Outcome α Fault Refusal} (h : isNext o = true) : ∃ t, o = .next t := by
  cases o with
  | next t => exact ⟨t, rfl⟩
  | fault f => cases h
  | refused r => cases h

/-! ### Well-formedness: the reserved rows' ranges (R93, R114) -/

theorem test_wf_refuses_rsvd32_below : (Instr.wRsvd32To63 31 0).wf = false := by decide
theorem test_wf_refuses_rsvd32_above : (Instr.wRsvd32To63 64 0).wf = false := by decide
theorem test_wf_refuses_rsvd64_below : (Instr.wRsvd64To127 63 0).wf = false := by decide
theorem test_wf_allows_the_ends : (Instr.wRsvd32To63 32 0).wf ∧ (Instr.wRsvd32To63 63 0).wf ∧
    (Instr.wRsvd64To127 64 0).wf ∧ (Instr.wRsvd64To127 127 0).wf := by decide

/-! ### Decoding: words written bit by bit from R90, R93 to R100 (7 address bits, then 8 data bits) -/

theorem test_decode_pitch_increments :
    decode 0b000000010001000 = .ok (.wTinc0 0x88) ∧ decode 0b000000100000001 = .ok (.wTinc1 0x01) ∧
    decode 0b000001011111111 = .ok (.wTinc2 0xFF) ∧ decode 0b000001110000000 = .ok (.wTinc3 0x80) ∧
    decode 0b000010000000000 = .ok (.wTinc4 0x00) ∧ decode 0b000010111111111 = .ok (.wNinc 0xFF) := by decide

/-- R95: the first octave in bits 2:0, its strobe in bit 3, the second octave in bits 6:4, its strobe in bit 7. -/
theorem test_decode_octaves :
    decode 0b000011000001011 = .ok (.wOct01 3 true 0 false) ∧ decode 0b000011010000000 = .ok (.wOct01 0 false 0 true) ∧
    decode 0b000011111110000 = .ok (.wOct23 0 false 7 true) ∧ decode 0b000100001110000 = .ok (.wOct4n 0 false 7 false) ∧
    decode 0b000100000100110 = .ok (.wOct4n 6 false 2 false) := by decide

theorem test_decode_duty_and_tap :
    decode 0b000100101000000 = .ok (.wDuty0 0x40) ∧ decode 0b000101000000010 = .ok (.wDuty1 2) ∧
    decode 0b000101100000011 = .ok (.wDuty2 3) ∧ decode 0b000110000000100 = .ok (.wDuty3 4) ∧
    decode 0b000110100000001 = .ok (.wDuty4 1) ∧ decode 0b000111000000001 = .ok (.wNtapl 1) ∧
    decode 0b000111110110100 = .ok (.wNtaph 0xB4) := by decide

theorem test_decode_volume_and_config :
    decode 0b001000011111111 = .ok (.wVol0 0xFF) ∧ decode 0b001000110000000 = .ok (.wVol1 0x80) ∧
    decode 0b001001000000010 = .ok (.wVol2 2) ∧ decode 0b001001100000011 = .ok (.wVol3 3) ∧
    decode 0b001010000000000 = .ok (.wVol4 0) ∧ decode 0b001010101100011 = .ok (.wCfg0 0x63) ∧
    decode 0b001011010000000 = .ok (.wCfg1 0x80) ∧ decode 0b001011100000001 = .ok (.wCfg2 1) ∧
    decode 0b001100000001100 = .ok (.wCfg3 0x0C) ∧ decode 0b001100100010010 = .ok (.wCfg4 0x12) := by decide

/-- R100: envelope A's octave in bits 3:0, B's in bits 7:4. -/
theorem test_decode_envelope :
    decode 0b001101000110100 = .ok (.wEldl 0x34) ∧ decode 0b001101100010010 = .ok (.wEldh 0x12) ∧
    decode 0b001110000001001 = .ok (.wEshape 9) ∧ decode 0b001110100010000 = .ok (.wEinca 0x10) ∧
    decode 0b001111011111111 = .ok (.wEincb 0xFF) ∧ decode 0b001111110100101 = .ok (.wEoct 5 10) := by decide

/-- R114: 0x2000 to 0x3FFF and 0x4000 to 0x7FFF are the reserved rows. -/
theorem test_decode_reserved :
    decode 0x2000 = .ok (.wRsvd32To63 32 0) ∧ decode 0x3FFF = .ok (.wRsvd32To63 63 0xFF) ∧
    decode 0x4000 = .ok (.wRsvd64To127 64 0) ∧ decode 0x7FFF = .ok (.wRsvd64To127 127 0xFF) := by decide

/-- R314: no address above 127, no data above 255. -/
theorem test_decode_rejects : decode 0x8000 = .error .addressAbove127 ∧ decodePair 128 0 = .error .addressAbove127 ∧
    decodePair 0 256 = .error .dataAbove255 ∧ decodePair 127 255 = .ok (.wRsvd64To127 127 255) := by decide

theorem test_table_word : decodeTableWord 15 0x0940 = some (.wDuty0 0x40) ∧
    step (State.reset.withFetchWord 15 0x0940) = step { State.reset with writeQueue := [⟨9, 0x40⟩] } := ⟨by decide, rfl⟩

/-! ### Register writes (spec/95_test_vectors.md section 2.2) -/

theorem test_tinc0 : (after 0x0088 (after 0x0603 start)).regs.shiftedIncrement.c0 = 0x0880 := by decide
theorem test_tinc1 : (after 0x0101 start).regs.shiftedIncrement = ⟨0, 2, 0, 0, 0⟩ := by decide
theorem test_tinc2 : (after 0x02FF (after 0x0707 start)).regs.shiftedIncrement.c2 = 0xFF00 := by decide
theorem test_tinc3 : (after 0x0380 (after 0x0740 start)).regs.shiftedIncrement.c3 = 0x1000 := by decide
theorem test_tinc4 : (after 0x0400 (after 0x0409 start)).regs.shiftedIncrement.c4 = 0 := by decide
theorem test_ninc : (after 0x05FF (after 0x0870 start)).regs.noiseShiftedIncrement = 0xFF00 := by decide

theorem test_oct01 :
    let s := after 0x060B { after 0x0088 start with synth := { start.synth with tonePhaseAcc := .const 0x1234 } }
    s.regs.shiftedIncrement.c0 = 0x0880 ∧ s.synth.tonePhaseAcc = ⟨0, 0x1234, 0x1234, 0x1234, 0x1234⟩ := by decide

theorem test_oct01_sets_the_other_channel :
    (after 0x0600 (after 0x0101 (after 0x0650 start))).regs.shiftedIncrement.c1 = 2 := by decide

theorem test_oct23 :
    let s := after 0x07F0 { after 0x0310 start with synth := { start.synth with tonePhaseAcc := .const 0x5555 } }
    s.regs.toneOctave = ⟨0, 0, 0, 7, 0⟩ ∧ s.regs.shiftedIncrement.c3 = 0x1000 ∧
      s.synth.tonePhaseAcc = ⟨0x5555, 0x5555, 0x5555, 0, 0x5555⟩ := by decide

theorem test_oct4n : (after 0x0870 (after 0x05FF start)).regs.noiseShiftedIncrement = 0xFF00 := by decide

theorem test_oct4n_strobe :
    let s := after 0x0880 { start with synth := { start.synth with noisePhaseAcc := 0x8000, noiseLFSR := 0x3600 } }
    s.synth.noisePhaseAcc = 0 ∧ s.synth.noiseLFSR = 0x3600 := by decide

theorem test_duty : (after 0x0D05 (after 0x0C04 (after 0x0B03 (after 0x0A02 (after 0x0940 start))))).regs.dutyCycle =
    ⟨0x40, 2, 3, 4, 5⟩ := by decide
theorem test_ntapl : (after 0x0E01 start).regs.noiseXorTap = 0x2401 := by decide
theorem test_ntaph : (after 0x0FB4 start).regs.noiseXorTap = 0xB400 := by decide
theorem test_vol : (after 0x1405 (after 0x1304 (after 0x1203 (after 0x1102 (after 0x10FF start))))).regs.staticVolume =
    ⟨0xFF, 2, 3, 4, 5⟩ := by decide
theorem test_cfg : (after 0x1912 (after 0x180C (after 0x1703 (after 0x1680 (after 0x1563 start))))).regs.channelConfig =
    ⟨0x63, 0x80, 3, 0x0C, 0x12⟩ := by decide

/-- R98, R170, R171. -/
theorem test_config_fields : noiseEn 0x63 = false ∧ envEn 0x63 = true ∧ envSel 0x63 = .B ∧ panMult p0 0x63 = 4 ∧
    noiseEn 0x80 = true ∧ panMult p0 0x80 = 1 ∧ pan1 0x0C = 3 ∧ panMult p0 0x0C = 1 ∧ panMult p0 0x12 = 3 := by decide

theorem test_eldl_eldh : (after 0x1A34 start).regs.envLoadBuffer = 0x0034 ∧
    (after 0x1B12 (after 0x1A34 start)).regs.envLoadBuffer = 0x1234 := by decide

theorem test_eshape_reset :
    let s := after 0x1C08 (after 0x1B12 (after 0x1A34 start))
    s.synth.envState = ⟨0x12, 0⟩ ∧ s.synth.envPhaseAcc = ⟨0x3400, 0⟩ ∧ s.synth.envSlope = ⟨true, false⟩ ∧
      s.synth.envSmpVolume = ⟨0, 0⟩ := by decide

theorem test_eshape_edges : (after 0x1C44 start).synth.envSlope = ⟨true, true⟩ ∧
    (after 0x1C00 (after 0x1C04 start)).synth.envSlope = ⟨false, false⟩ ∧
    (after 0x1C0C start).synth.envSlope = ⟨false, false⟩ := by decide

theorem test_einca : (after 0x1D10 (after 0x1F09 start)).regs.envShiftedIncrement.A = 0x0040 := by decide
theorem test_eincb : (after 0x1EFF (after 0x1FF0 start)).regs.envShiftedIncrement.B = 0xFF00 := by decide
theorem test_eoct : (after 0x1F09 (after 0x1D10 start)).regs.envShiftedIncrement.A = 0x0040 ∧
    (after 0x1F08 (after 0x1D80 start)).regs.envShiftedIncrement.A = 0x0100 := by decide
theorem test_reserved : after 0x2012 start = start ∧ after 0x7F00 start = start := by decide

/-! ### Update cycle (sections 2.3 to 2.5) -/

/-- Section 1.2: the wrap and both sides of the comparison. -/
theorem test_tone_bit : (0xFF00 + 0x0200 : Half) = 0x0100 ∧ toneBit 0x0100 0x02 = true ∧ toneBit 0x3FFF 0x40 = true ∧
    toneBit 0x4000 0x40 = false ∧ toneBit 0xFF00 0xFF = false ∧ toneBit 0 0 = false := by decide

theorem test_lfsr : lfsrNext 0 0x2400 = 0x2400 ∧ lfsrNext 0x2400 0x2400 = 0x3600 ∧ lfsrNext 0x3807 0x2400 = 0x1C03 ∧
    lfsrNext 0x0700 0x2400 = 0x2780 ∧ lfsrNext 0x0005 0 = 0x0002 := by decide

theorem test_noise_wrap : noiseWrapped 0x0000 0x0100 = true ∧ noiseWrapped 0xFFFE 0xFF00 = false ∧
    noiseWrapped 0xFEFE 0xFF00 = true ∧ noiseWrapped 0 0 = false ∧ noiseWrapped 0 1 = true := by decide

/-- Section 2.4, row h1a0k0: 40 80 C0 FF, then halted. -/
theorem test_envelope_hold : (envUpdate .A (ramp 1 0x80 0x80)).synth.envSmpVolume.A = 0xC0 ∧
    (envUpdate .A (ramp 1 0xC0 0xC0)).synth.envSmpVolume.A = 0xFF ∧
    (envUpdate .A (ramp 1 0xC0 0xC0)).synth.envHalted.A = true := by decide

/-- Section 2.4, row h0a1k0: the top of the triangle, then down; row h1a1k0: held at 0. -/
theorem test_envelope_alternate : (envUpdate .A (ramp 2 0xC0 0xC0)).synth.envSmpVolume.A = 0xFF ∧
    (envUpdate .A (envUpdate .A (ramp 2 0xC0 0xC0))).synth.envSmpVolume.A = 0xBF ∧
    (envUpdate .A (ramp 3 0xC0 0xC0)).synth.envSmpVolume.A = 0x00 := by decide

/-- Section 2.5: a channel of tone only, halved and full envelope levels, noise gating. -/
theorem test_mixer_channels :
    chanSample true .c0 (after 0x10FF (after 0x1503 start)) = 1020 ∧
    chanSample true .c0 (after 0x1543 (ramp 0 0 0xC1)) = 384 ∧
    chanSample false .c2 (after 0x1210 (after 0x1780 start)) = 0 ∧
    chanSample false .c2 { after 0x1210 (after 0x1780 start) with synth := { start.synth with noiseMask := 0xFF } } = 16 := by
  decide

/-- Section 2.5: the full-scale sum, with and without mute, at two bit depths. -/
theorem test_mixed_sample :
    let s : State := { start with out := { start.out with channelOutput := .const 1020 } }
    let m : State := { s with settings := { s.settings with mute := ⟨true, true, false, false, false⟩ } }
    let d (n : Nat) : State := { s with settings := { s.settings with outputBitdepth := n } }
    mixedSample s = 255 ∧ mixedSample m = 153 ∧ mixedSample (d 16) = 65343 ∧ mixedSample (d 32) = 1045500 := by decide

/-- Section 2.6: the exact output of a sample of 12 at low bytes 12 and 13. -/
theorem test_pwm_exact :
    let s (c : BitVec 32) : State := { start with
      clockCycle := c, out := { start.out with delayRing := ⟨12, 0⟩ }
      settings := { start.settings with outputType := .exact } }
    pwmOutput (s 1036) = 255 ∧ pwmOutput (s 1037) = 0 := by decide

/-- Section 2.7. -/
theorem test_rescaled : rescaleUnsigned 16 8 12 = 3072 ∧ rescaleSigned 16 8 255 = 32512 ∧ rescaleSigned 32 8 0 = -2147483648 ∧
    rescaleUnsigned 16 20 1045500 = 65343 ∧ rescaleUnsigned 16 1 1 = 32768 := by decide

/-- Section 2.7: ratio 1/3 runs no tick on the first call and one on the third. -/
theorem test_ticks_due : ticksDue thirdRatio = 0 ∧ ticksDue { thirdRatio with tickAccumulator := mkRat 2 3 } = 1 ∧
    ticksDue start = 512 := by decide +kernel

/-! ### Sound states -/

theorem p0_sound : ParamsSound p0 := by unfold ParamsSound; decide

theorem start_idle : Idle start where
  inv :=
    { toneSteps := by intro i; cases i <;> decide
      noiseSteps := by decide
      envSteps := by intro g; cases g <;> decide
      noiseMaskLegal := by decide
      channelBounded := by intro i; exact ⟨0, by cases i <;> decide⟩
      ringBounded := by decide
      currentBounded := by decide
      queueBounded := by decide
      accumulatorNonneg := by decide +kernel
      ratioExact := by decide +kernel
      ratesPositive := by decide
      qualityNeedsScratch := by decide
      bitdepthLegal := by decide
      paramsSound := p0_sound }
  accumulatorBelowOne := by decide +kernel
  recordEmpty := by decide

/-- A sound state stays sound when its clock ratio is another exact one. -/
theorem idle_at {s : State} (h : Idle s) (c r : Nat) (hc : 0 < c) (hr : 0 < r) : Idle { s with settings := { s.settings with
    clockHz := c, sampleRateHz := r, ticksPerOutputSample := (c : Rat) / (r : Rat) } } :=
  ⟨{ h.inv with ratioExact := rfl, ratesPositive := ⟨hc, hr⟩ }, h.accumulatorBelowOne, h.recordEmpty⟩

theorem unitRatio_idle : Idle unitRatio := by
  have h := idle_at start_idle 1 1 (by decide) (by decide)
  rwa [show ((1 : Nat) : Rat) / ((1 : Nat) : Rat) = mkRat 1 1 by decide +kernel] at h

theorem thirdRatio_idle : Idle thirdRatio := by
  have h := idle_at start_idle 1 3 (by decide) (by decide)
  rwa [show ((1 : Nat) : Rat) / ((3 : Nat) : Rat) = mkRat 1 3 by decide +kernel] at h

theorem ramp_inv (shape state volume : Byte) : Inv (ramp shape state volume) :=
  { start_idle.inv with
    envSteps := by
      intro g
      cases g
      · exact (by decide : (0x4000 : Half).toNat = (0x40 : Byte).toNat * 2 ^ (1 + (15 : BitVec 4).toNat % 8))
      · exact start_idle.inv.envSteps .B }

/-! ### Witnesses: hypotheses met together, for each statement that has any -/

theorem witness_EveryWordDecodesToOneInstruction :
    (Instr.wTinc0 0x88).wf = true ∧ encode (.wTinc0 0x88) = 0x0088 := by decide

theorem witness_DecodeInvertsEncode : (Instr.wEoct 5 10).wf = true ∧ (Instr.wRsvd32To63 63 0xFF).wf = true := by decide

theorem witness_NumbersOutsideTheInterfaceAreRejected :
    2 ^ 15 ≤ 0x8000 ∧ 127 < 128 ∧ (127 ≤ 127 ∧ 255 < 256) ∧ (127 ≤ 127 ∧ 255 ≤ 255) := by decide

/-- A queue of one write and a later one. -/
def twoWrites : State := { start with writeQueue := [⟨9, 0x40⟩, ⟨28, 9⟩] }

theorem witness_StepRunsTheOldestWrite : (Instr.wDuty0 0x40).wf = true ∧
    twoWrites.writeQueue = (Instr.wDuty0 0x40).cmd :: [⟨28, 9⟩] := by decide

/-- An idle tick off the boundary, with the exact output and the mean. -/
def exactMean : State := { start with
  clockCycle := 511, settings := { start.settings with outputType := .exact, quality := .mean } }

theorem witness_TickWithoutAWrite :
    (start.writeQueue = [] ∧ start.clockCycle.toNat % 512 = 0 ∧ start.settings.outputType = .approx ∧
      start.settings.quality = .nearest) ∧
    exactMean.writeQueue = [] ∧ exactMean.clockCycle.toNat % 512 ≠ 0 ∧ exactMean.settings.outputType = .exact ∧
      exactMean.settings.quality = .mean := by decide

theorem witness_WritesAreAppliedInOrder :
    twoWrites.writeQueue = [] ++ ⟨9, 0x40⟩ :: [⟨28, 9⟩] ∧ twoWrites.writeQueue = [⟨9, 0x40⟩] ++ ⟨28, 9⟩ :: [] ∧
    ∃ t, enqueueWrite 9 0x40 start = .next t := ⟨by decide, by decide, _, rfl⟩

theorem witness_CapacityBoundsTheQueue : start.writeQueue = [] ∧ ∃ t, runTicks 2 twoWrites = .next t :=
  ⟨by decide, exists_of_isNext (by decide)⟩

theorem witness_UpdatesHappenOnlyOnTheBoundary : exactMean.clockCycle.toNat % 512 ≠ 0 ∧
    (∃ u, drain exactMean = .next u) ∧ ∃ t, step exactMean = .next t :=
  ⟨by decide, exists_of_isNext (by decide), exists_of_isNext (by decide)⟩

/-- An octave field that changes and one that does not (statements `ToneOctaveWrites`, `OctaveFourAndNoiseWrite`). -/
theorem witness_OctaveWrites : (3 : BitVec 3) ≠ start.regs.toneOctave.get .c0 ∧ (0 : BitVec 3) = start.regs.toneOctave.get .c4 ∧
    (7 : BitVec 3) ≠ start.regs.noiseOctave ∧ (0 : BitVec 3) = start.regs.noiseOctave := by decide

theorem witness_EnvelopeOctaveWrite :
    (after 0x1F09 start).regs.envOctave.get .A ≠ start.regs.envOctave.get .A ∧
    (after 0x1F09 start).regs.envOctave.get .B = start.regs.envOctave.get .B := by decide

/-- Two channels, two generators (the statements of one channel's or one generator's store). -/
theorem witness_other_channel_and_generator : Chan.c1 ≠ Chan.c0 ∧ Gen.B ≠ Gen.A := by decide

theorem witness_EnvelopeShapeWrite :
    (0x88 : Byte).getLsbD (genNibble .A + 3) = true ∧ (0x88 : Byte).getLsbD (genNibble .B + 3) = true ∧
    (0x44 : Byte).getLsbD (genNibble .A + 3) = false ∧ (0x44 : Byte).getLsbD (genNibble .B + 3) = false := by decide

theorem witness_ReservedWritesOnlyTakeTheirTick :
    let c : WriteCmd := ⟨32, 0x12⟩
    let e : WriteCmd := ⟨127, 0⟩
    (32 ≤ c.addr.toNat ∧ ({ start with writeQueue := [c] } : State).writeQueue = c :: []) ∧
    (32 ≤ e.addr.toNat ∧ ({ start with writeQueue := [e, c] } : State).writeQueue = e :: [c]) := by decide

theorem witness_RegisterWritesReachOnlyTheirOwnState : ∃ t, exec (.wDuty0 0x40) start = .next t ∧
    (Instr.wDuty0 0x40).address.toNat ≠ 6 ∧ (Instr.wDuty0 0x40).address.toNat ≠ 7 ∧
    (Instr.wDuty0 0x40).address.toNat ≠ 8 ∧ (Instr.wDuty0 0x40).address.toNat ≠ 28 :=
  ⟨_, rfl, by decide⟩

theorem witness_RepeatedWriteIsIdempotent : ∃ t, exec (.wEshape 0x0C) start = .next t := ⟨_, rfl⟩

/-- The addition reaches 2^16 exactly, with each feedback bit, and falls short by two. -/
theorem witness_NoiseAdvancesExactlyOnCarry :
    let s (acc step lfsr : Half) : State := { start with
      regs := { start.regs with noiseShiftedIncrement := step }
      synth := { start.synth with noisePhaseAcc := acc, noiseLFSR := lfsr } }
    let carries (s : State) : Prop := 65536 ≤ s.synth.noisePhaseAcc.toNat + s.regs.noiseShiftedIncrement.toNat
    (carries (s 0xFF00 0x0100 1) ∧ (s 0xFF00 0x0100 1).synth.noiseLFSR.toNat % 2 = 1) ∧
    (carries (s 0xFF00 0x0100 0) ∧ (s 0xFF00 0x0100 0).synth.noiseLFSR.toNat % 2 = 0) ∧
    (s 0x00FE 0xFF00 0).synth.noisePhaseAcc.toNat + (s 0x00FE 0xFF00 0).regs.noiseShiftedIncrement.toNat < 65536 := by
  decide

theorem witness_HaltedEnvelopeStays : (envUpdate .A (ramp 1 0xC0 0xC0)).synth.envHalted.get .A = true := by decide

/-- The counter reaches 2^24 exactly. -/
theorem witness_EnvelopeIsA24BitCounter : Inv (ramp 1 0xC0 0xC0) ∧ (ramp 1 0xC0 0xC0).synth.envHalted.get .A = false ∧
    2 ^ 24 = envCounter .A (ramp 1 0xC0 0xC0) + envAmount .A (ramp 1 0xC0 0xC0) := ⟨ramp_inv _ _ _, by decide⟩

/-- An octave below 8 and the highest one, neither generator halted. -/
theorem witness_EnvelopeAmountSpansSixteenOctaves :
    (Inv start ∧ (start.regs.envOctave.get .B).toNat = 0 ∧ start.synth.envHalted.get .B = false) ∧
    Inv (ramp 1 0x80 0x80) ∧ ((ramp 1 0x80 0x80).regs.envOctave.get .A).toNat = 15 ∧
      (ramp 1 0x80 0x80).synth.envHalted.get .A = false :=
  ⟨⟨start_idle.inv, by decide⟩, ramp_inv _ _ _, by decide⟩

/-- R231: octave 8 adds 0x10000 and octave 0 adds 0x100 for an increment of 0x80 (section 2.2, last row). -/
theorem test_env_step : (envStep .A (after 0x1F08 (after 0x1D80 start))).toNat = 0x10000 ∧
    (envStep .A (after 0x1D80 start)).toNat = 0x100 := by decide

/-- A step too small to carry, one that carries short of 2^24, and one that reaches it. -/
theorem witness_EnvelopeOutputRule :
    (Inv start ∧ start.synth.envHalted.get .A = false ∧
      (start.synth.envPhaseAcc.get .A).toNat + envAmount .A start < 65536) ∧
    (Inv (ramp 1 0x80 0x80) ∧ (ramp 1 0x80 0x80).synth.envHalted.get .A = false ∧
      65536 ≤ ((ramp 1 0x80 0x80).synth.envPhaseAcc.get .A).toNat + envAmount .A (ramp 1 0x80 0x80) ∧
      envCounter .A (ramp 1 0x80 0x80) + envAmount .A (ramp 1 0x80 0x80) < 2 ^ 24) ∧
    Inv (ramp 2 0xC0 0xC0) ∧ (ramp 2 0xC0 0xC0).synth.envHalted.get .A = false ∧
      65536 ≤ ((ramp 2 0xC0 0xC0).synth.envPhaseAcc.get .A).toNat + envAmount .A (ramp 2 0xC0 0xC0) ∧
      2 ^ 24 ≤ envCounter .A (ramp 2 0xC0 0xC0) + envAmount .A (ramp 2 0xC0 0xC0) :=
  ⟨⟨start_idle.inv, by decide⟩, ⟨ramp_inv _ _ _, by decide⟩, ramp_inv _ _ _, by decide⟩

/-- Three updates stay below 2^24 and the fourth reaches it. -/
theorem witness_HoldShapeRisesAndHolds :
    let s := ramp 1 0 0
    Inv s ∧ s.synth.envHalted.get .A = false ∧ s.synth.envSlope.get .A = true ∧
    s.regs.envShape.getLsbD (genNibble .A) = true ∧ s.regs.envShape.getLsbD (genNibble .A + 1) = false ∧
    (s.synth.envSmpVolume.get .A).toNat ≤ (s.synth.envState.get .A).toNat ∧
    envCounter .A s + 3 * envAmount .A s < 2 ^ 24 ∧ 2 ^ 24 ≤ envCounter .A s + 4 * envAmount .A s :=
  ⟨ramp_inv _ _ _, by decide⟩

theorem witness_MixerFollowsTheSameUpdate : start.params.panMultListed = [] := rfl

/-- All but ENV_EN set in every config, noise masking in, and writes pending at the addresses beside 16 to 25. -/
def quiet (t : OutputType) : State := { start with
  regs := { start.regs with channelConfig := .const 0xBF, dutyCycle := .const 0xFF }
  synth := { start.synth with noiseMask := 0xFF }
  settings := { start.settings with outputType := t }
  writeQueue := [⟨15, 0xB4⟩, ⟨26, 0xFF⟩, ⟨28, 0x88⟩] }

theorem witness_OutputLatencyIs512Ticks :
    (0 < 512 ∧ 511 < 512) ∧
    (start.clockCycle.toNat % 512 = 0 ∧ start.settings.outputType = .approx ∧ ∃ u, step start = .next u) ∧
    (quiet .exact).clockCycle.toNat % 512 = 0 ∧ (quiet .exact).settings.outputType = .exact ∧
      ∃ u, step (quiet .exact) = .next u :=
  ⟨by decide, ⟨by decide, rfl, _, rfl⟩, by decide, rfl, _, rfl⟩

/-- The start of a PWM period that is no update period. -/
def exactPeriod : State := { exactMean with clockCycle := 256, out := { start.out with delayRing := ⟨12, 0⟩ } }

theorem witness_ExactPwmDutyIsTheSamplePlusOne : exactPeriod.clockCycle.toNat % 256 = 0 ∧
    exactPeriod.settings.outputType = .exact ∧ exactPeriod.settings.quality = .mean ∧ exactPeriod.recorded = [] ∧
    ∃ t, runTicks 256 exactPeriod = .next t :=
  ⟨by decide, rfl, rfl, rfl, exists_of_isNext (by decide +kernel)⟩

theorem witness_CreatedInstancesSatisfyTheInvariant : ArgsSound ⟨8000000, 44100, .exact, 0, 32, p0⟩ :=
  ⟨by decide, by decide, by decide, p0_sound⟩

theorem witness_EveryStepKeepsTheInvariant : Inv (ramp 1 0xC0 0xC0) ∧ ∃ t, step (ramp 1 0xC0 0xC0) = .next t :=
  ⟨ramp_inv _ _ _, _, rfl⟩

theorem witness_EveryHostCallKeepsTheInvariant :
    Idle start ∧ (∃ p, hostCall (.enqueueWrite 9 0x40) start = .next p) ∧
    (∃ p, hostCall (.setClockAndRate 1 3 false) start = .next p) ∧
    Idle unitRatio ∧ ∃ p, hostCall .produceSample unitRatio = .next p :=
  ⟨start_idle, ⟨_, rfl⟩, ⟨_, rfl⟩, unitRatio_idle, exists_of_isNext (by decide +kernel)⟩

theorem quiet_silent (t : OutputType) : Silent (quiet t) where
  inv := { start_idle.inv with noiseMaskLegal := .inr rfl, queueBounded := by cases t <;> decide }
  volumesZero := by intro i; cases i <;> rfl
  envelopesOff := by intro i; cases i <;> cases t <;> decide
  ringZero := rfl
  queueQuiet := by cases t <;> decide

theorem witness_SilentUntilWritten :
    (Silent (quiet .approx) ∧ (quiet .approx).settings.outputType = .approx) ∧
    (Silent (quiet .exact) ∧ (quiet .exact).settings.outputType = .exact ∧ (quiet .exact).clockCycle.toNat % 256 = 0) ∧
    ArgsSound ⟨8000000, 44100, .exact, 0, 32, p0⟩ ∧
    Idle { ramp 1 0xC0 0xC0 with writeQueue := [⟨15, 0xB4⟩, ⟨26, 0xFF⟩] } ∧
    ∀ c ∈ ([⟨15, 0xB4⟩, ⟨26, 0xFF⟩] : List WriteCmd), c.addr.toNat < 16 ∨ 25 < c.addr.toNat :=
  ⟨⟨quiet_silent _, rfl⟩, ⟨quiet_silent _, rfl, rfl⟩, ⟨by decide, by decide, by decide, p0_sound⟩,
    ⟨{ ramp_inv _ _ _ with queueBounded := by decide }, start_idle.accumulatorBelowOne, rfl⟩, by decide⟩

/-- Room for one more, and none at capacity 0. -/
theorem witness_EnqueueAppendsOrDrops :
    let z : State := State.created ⟨5120, 10, .approx, 0, 8, p0⟩ true
    start.writeQueue.length < start.settings.writeQueueCapacity ∧ z.settings.writeQueueCapacity ≤ z.writeQueue.length := by
  decide

theorem witness_SampleRunsTheWholeTicks : Idle unitRatio ∧ ∃ p, produceSample unitRatio = .next p :=
  ⟨unitRatio_idle, exists_of_isNext (by decide +kernel)⟩

theorem witness_TicksOverManyCalls : Idle thirdRatio ∧ thirdRatio.tickAccumulator = 0 := ⟨thirdRatio_idle, rfl⟩

/-- Quality 0 with a tick, quality 1 with a tick, and a call that runs none. -/
theorem witness_SampleIsTheLastOutputOrTheMean :
    let m := setQuality 1 unitRatio
    (Idle unitRatio ∧ unitRatio.settings.quality = .nearest ∧ ∃ p, produceSample unitRatio = .next p) ∧
    (Idle m ∧ m.settings.quality = .mean ∧ 0 < ticksDue m ∧ ∃ p, produceSample m = .next p) ∧
    Idle thirdRatio ∧ ticksDue thirdRatio = 0 ∧ ∃ p, produceSample thirdRatio = .next p :=
  ⟨⟨unitRatio_idle, rfl, exists_of_isNext (by decide +kernel)⟩,
    ⟨⟨{ unitRatio_idle.inv with qualityNeedsScratch := fun h => nomatch h },
        unitRatio_idle.accumulatorBelowOne, rfl⟩, rfl, by decide +kernel, exists_of_isNext (by decide +kernel)⟩,
    thirdRatio_idle, by decide +kernel, exists_of_isNext (by decide +kernel)⟩

/-- A 16-bit result at the ends of the bit depth's range and at 16 and 17, where the two shift clauses meet: the
middle value and 0, the largest value that fits, and the smallest that is reduced. -/
theorem witness_RescaledResultsFillTheRange :
    let n := SampleWidth.w16.bits
    (1 ≤ 1 ∧ 1 ≤ 32 ∧ 1 ≤ n ∧ 1 < 2 ^ 1 ∧ 1 = 2 ^ (1 - 1)) ∧
    (1 ≤ 16 ∧ 16 ≤ 32 ∧ 16 ≤ n ∧ ¬ n < 16 ∧ 0xFFFF < 2 ^ 16 ∧ ¬ 0x10000 < 2 ^ 16) ∧
    (1 ≤ 17 ∧ 17 ≤ 32 ∧ n < 17 ∧ ¬ 17 ≤ n ∧ 0x1FFFF < 2 ^ 17 ∧ ¬ 0x20000 < 2 ^ 17) ∧
    (1 ≤ 32 ∧ 32 ≤ 32 ∧ n < 32 ∧ 0 < 2 ^ 32 ∧ 0 = 0) := by decide

/-- R292, R293 by hand at the meeting point of the two shifts: values that fit, and 2^bd reduced modulo 2^N. -/
theorem test_rescaled_where_the_shifts_meet :
    rescaleUnsigned 16 16 0xFFFF = 0xFFFF ∧ rescaleUnsigned 16 17 0x1FFFF = 0xFFFF ∧ rescaleUnsigned 16 16 0x10000 = 0 ∧
    rescaleUnsigned 16 17 0x20000 = 0 ∧ rescaleSigned 16 17 0x10000 = 0 ∧ rescaleSigned 16 16 1 = -32767 := by decide

theorem witness_RescaledVariantsAreOneSample : ∃ t v, hostCall .produceSample unitRatio = .next (t, .sample v) := by
  obtain ⟨⟨t, v⟩, h⟩ := exists_of_isNext (o := produceSample unitRatio) (by decide +kernel)
  exact ⟨t, v, by simp [hostCall, h]⟩

theorem witness_ConfigurationCalls : (0 < 1 ∧ 0 < 1) ∧ 4 < 5 ∧ Chan.c1 ≠ Chan.c0 := by decide

theorem witness_BoundaryRefusals :
    let a (c r bd : Nat) : CreateArgs := ⟨c, r, .approx, 8, bd, p0⟩
    127 < 128 ∧ (127 ≤ 127 ∧ 255 < 256) ∧ 0 < 1 ∧ 1 < 2 ∧
    (a 0 0 8).clockHz = 0 ∧ (0 < (a 1 0 8).clockHz ∧ (a 1 0 8).sampleRateHz = 0) ∧
    (0 < (a 1 1 0).clockHz ∧ 0 < (a 1 1 0).sampleRateHz ∧ (a 1 1 0).outputBitdepth = 0) ∧ 32 < (a 1 1 33).outputBitdepth ∧
    World.empty.find 0 = none := by decide

theorem witness_OnlySamplesAdvanceTime : (∃ p, hostCall (.enqueueWrite 9 0x40) start = .next p) ∧
    HostCall.enqueueWrite 9 0x40 ≠ .reset ∧ HostCall.enqueueWrite 9 0x40 ≠ .produceSample ∧
    (∀ w, HostCall.enqueueWrite 9 0x40 ≠ .produceSampleU w) ∧ ∀ w, HostCall.enqueueWrite 9 0x40 ≠ .produceSampleS w :=
  ⟨⟨_, rfl⟩, nofun, nofun, nofun, nofun⟩

/-- One live instance. -/
def oneInstance : World := ⟨[(0, start)], 1⟩

theorem witness_CreateFollowsItsDraws : (0 < 5120 ∧ 0 < 10 ∧ 1 ≤ 1 ∧ 32 ≤ 32) ∧
    (∀ e ∈ oneInstance.live, e.1 < oneInstance.nextHandle) ∧ (1 : Nat) ≠ 0 := by decide

theorem witness_InstancesNeverShareState : (∃ p, oneInstance.call 0 (.enqueueWrite 9 0x40) = .next p) ∧
    (∃ p, oneInstance.destroy 0 = .next p) ∧ (1 : Nat) ≠ 0 := ⟨⟨_, rfl⟩, ⟨_, rfl⟩, by decide⟩

theorem witness_DrainEmptiesTheQueue : Idle { thirdRatio with writeQueue := [⟨9, 0x40⟩, ⟨28, 9⟩] } :=
  ⟨{ thirdRatio_idle.inv with queueBounded := by decide }, thirdRatio_idle.accumulatorBelowOne, rfl⟩

end Sys2Proof.Tests
end

section
/-! PROOFS. What a register write, a drain and a run of ticks answer, and what they leave of the state. -/

namespace Sys2Proof.Machine

/-- `t` is `s` but for its register file and its synthesis state, which are all that a register write reaches. -/
def RegSynthOnly (s t : State) : Prop := t = { s with regs := t.regs, synth := t.synth }

theorem RegSynthOnly.trans {s t u : State} (hst : RegSynthOnly s t) (htu : RegSynthOnly t u) : RegSynthOnly s u := by
  unfold RegSynthOnly at *
  rw [htu, hst]

theorem RegSynthOnly.writeQueue_eq {s t : State} (h : RegSynthOnly s t) : t.writeQueue = s.writeQueue := by
  rw [h]

/-! ### Register writes -/

theorem writeToneNibble_regSynthOnly (i : Chan) (o : BitVec 3) (rst : Bool) (s : State) :
    RegSynthOnly s (writeToneNibble i o rst s) := by
  obtain ⟨_, _, _, h, -⟩ := writeToneNibble_spec i o rst s
  rw [h]
  rfl

theorem writeNoiseNibble_regSynthOnly (o : BitVec 3) (rst : Bool) (s : State) :
    RegSynthOnly s (writeNoiseNibble o rst s) := by
  obtain ⟨_, _, h, -⟩ := writeNoiseNibble_spec o rst s
  rw [h]
  rfl

theorem setEnvOctave_regSynthOnly (g : Gen) (o : BitVec 4) (s : State) : RegSynthOnly s (setEnvOctave g o s) := by
  obtain ⟨-, h⟩ | ⟨-, h⟩ := setEnvOctave_cases g o s <;> rw [h] <;> rfl

theorem reloadEnvelope_regSynthOnly (g : Gen) (d : Byte) (s : State) : RegSynthOnly s (reloadEnvelope g d s) := by
  obtain ⟨-, h⟩ | ⟨-, h⟩ := reloadEnvelope_cases g d s <;> rw [h] <;> rfl

/-- Every register write answers a next state and reaches only the register file and the synthesis state (R113). -/
theorem exec_next (i : Instr) (s : State) : ∃ t, exec i s = .next t ∧ RegSynthOnly s t := by
  cases i with
  | wOct01 | wOct23 =>
    exact ⟨_, rfl, (writeToneNibble_regSynthOnly ..).trans (writeToneNibble_regSynthOnly ..)⟩
  | wOct4n =>
    exact ⟨_, rfl, (writeToneNibble_regSynthOnly ..).trans (writeNoiseNibble_regSynthOnly ..)⟩
  | wEshape d =>
    have hstore : RegSynthOnly s (storeShape d (latchAttackEdges d s)) := rfl
    exact ⟨_, rfl, (hstore.trans (reloadEnvelope_regSynthOnly ..)).trans (reloadEnvelope_regSynthOnly ..)⟩
  | wEoct =>
    exact ⟨_, rfl, (setEnvOctave_regSynthOnly ..).trans (setEnvOctave_regSynthOnly ..)⟩
  | _ => exact ⟨_, rfl, rfl⟩

/-! ### Ticks -/

theorem drain_of_cons {s : State} {c : WriteCmd} {rest : List WriteCmd} (h : s.writeQueue = c :: rest) :
    drain s = exec (decodeWord c.word) { s with writeQueue := rest } := by
  simp [drain, popWrite, h, WriteCmd.instr]

/-- A tick on a queue with head `c` first executes `c`'s instruction on the state without it (R112, R280). -/
theorem step_of_cons {s : State} {c : WriteCmd} {rest : List WriteCmd} (h : s.writeQueue = c :: rest) :
    ∃ v, exec (decodeWord c.word) { s with writeQueue := rest } = .next v ∧ step s = .next (finishTick v) ∧
      v.writeQueue = rest := by
  obtain ⟨v, hexec, honly⟩ := exec_next (decodeWord c.word) { s with writeQueue := rest }
  exact ⟨v, hexec, step_of_drain ((drain_of_cons h).trans hexec), honly.writeQueue_eq⟩

/-- Every tick answers a next state, and the oldest write, if there is one, has left the queue. -/
theorem step_writeQueue (s : State) : ∃ t, step s = .next t ∧ t.writeQueue = s.writeQueue.tail := by
  obtain ⟨hnil, hdrain⟩ | ⟨c, rest, hcons, -⟩ := drain_cases s
  · exact ⟨_, step_of_drain hdrain, by simp [hnil]⟩
  · obtain ⟨v, -, hstep, hv⟩ := step_of_cons hcons
    exact ⟨_, hstep, by simp [hv, hcons]⟩

/-- Every run answers a next state, and each of its ticks has taken one write from the front of the queue. -/
theorem runTicks_writeQueue (n : Nat) (s : State) :
    ∃ t, runTicks n s = .next t ∧ t.writeQueue = s.writeQueue.drop n := by
  induction n generalizing s with
  | zero => exact ⟨s, rfl, rfl⟩
  | succ n ih =>
    obtain ⟨u, hstep, hu⟩ := step_writeQueue s
    obtain ⟨t, hrun, ht⟩ := ih u
    exact ⟨t, (runTicks_succ_of_step n hstep).trans hrun, by rw [ht, hu, List.drop_tail]⟩

/-! ### Enqueuing -/

/-- An accepted enqueue is a push of the pair as a queue entry (R110). -/
theorem enqueueWrite_next {a d : Nat} {s t : State} (h : enqueueWrite a d s = .next t) :
    t = pushWrite ⟨BitVec.ofNat 7 a, BitVec.ofNat 8 d⟩ s := by
  unfold enqueueWrite at h
  split_ifs at h
  cases h
  rfl

theorem pushWrite_queue_only (c : WriteCmd) (s : State) :
    pushWrite c s = { s with writeQueue := (pushWrite c s).writeQueue } := by
  obtain ⟨-, h⟩ | ⟨-, h⟩ := pushWrite_cases c s <;> rw [h]

/-! ### The write queue's order -/

/-- Settles O8: a run of as many ticks as there are entries ahead drops exactly those, and the next tick takes the head
of what is left. -/
theorem writesAreAppliedInOrder : Obligations.WritesAreAppliedInOrder := by
  refine ⟨fun s pre post c hq => ?_, fun a d s t h => ?_⟩
  · obtain ⟨u, hrun, hdrop⟩ := runTicks_writeQueue pre.length s
    have hu : u.writeQueue = c :: post := by simpa [hq] using hdrop
    obtain ⟨v, hexec, hstep, hv⟩ := step_of_cons hu
    exact ⟨u, v, hrun, hu, hexec, hstep, hv, (finishTick_writeQueue v).trans hv⟩
  · rw [enqueueWrite_next h]
    exact pushWrite_queue_only _ s

end Sys2Proof.Machine
end

section
/-! PROOFS. Decoding and encoding are inverse on all words and on the well-formed instructions (R91). -/

namespace Sys2Proof

/-! ### Instructions and their words -/

@[simp] theorem wRsvd32To63_wf (a : Addr) (d : Byte) :
    (Instr.wRsvd32To63 a d).wf = true ↔ 32 ≤ a.toNat ∧ a.toNat < 64 := by
  simp [Instr.wf]

@[simp] theorem wRsvd64To127_wf (a : Addr) (d : Byte) : (Instr.wRsvd64To127 a d).wf = true ↔ 64 ≤ a.toNat := by
  simp [Instr.wf]

@[simp] theorem wordAddr_encode (i : Instr) : wordAddr (encode i) = i.address := wordAddr_word i.cmd

@[simp] theorem wordData_encode (i : Instr) : wordData (encode i) = i.dataByte := wordData_word i.cmd

/-- An octave/phase-reset byte is what its four fields pack to (R95). -/
theorem octPairByte_of_fields (d : Byte) :
    octPairByte (octFirst d) (rstFirst d) (octSecond d) (rstSecond d) = d := by
  revert d
  decide

/-- An envelope-octave byte is what its nibbles pack to (R100). -/
theorem envOctByte_of_nibbles (d : Byte) : envOctByte (octA d) (octB d) = d := by
  revert d
  decide

/-! ### From a word to its instruction and back -/

theorem decode_toNat (w : CmdWord) : decode w.toNat = .ok (decodeWord w) := by
  rw [decode, if_pos w.isLt, BitVec.ofNat_toNat, BitVec.setWidth_eq]

/-- Each arm of the decoder answers an instruction of its row, with the word's own address and data byte. -/
theorem decodeWord_wf_address_dataByte (w : CmdWord) :
    (decodeWord w).wf = true ∧ (decodeWord w).address = wordAddr w ∧ (decodeWord w).dataByte = wordData w := by
  have haddr {k : Nat} (h : (wordAddr w).toNat = k) : BitVec.ofNat 7 k = wordAddr w := by
    rw [← h, BitVec.ofNat_toNat, BitVec.setWidth_eq]
  fun_cases decodeWord w
  case case7 h | case8 h | case9 h => exact ⟨rfl, haddr h, octPairByte_of_fields _⟩
  case case32 h => exact ⟨rfl, haddr h, envOctByte_of_nibbles _⟩
  case case33 h64 =>
    have h32 : 32 ≤ (wordAddr w).toNat := by
      simp only [imp_false] at *
      omega
    exact ⟨(wRsvd32To63_wf ..).2 ⟨h32, h64⟩, rfl, rfl⟩
  case case34 h64 => exact ⟨(wRsvd64To127_wf ..).2 (Nat.le_of_not_lt h64), rfl, rfl⟩
  all_goals exact ⟨rfl, haddr ‹_›, rfl⟩

theorem encode_decodeWord (w : CmdWord) : encode (decodeWord w) = w := by
  obtain ⟨-, haddr, hdata⟩ := decodeWord_wf_address_dataByte w
  calc encode (decodeWord w) = (WriteCmd.ofWord w).word := by rw [encode, Instr.cmd, haddr, hdata, WriteCmd.ofWord]
    _ = w := word_ofWord w

/-! ### From an instruction to its word and back -/

/-- From address 32 on a word decodes to a reserved write (R93, R114). -/
theorem decodeWord_of_reserved {w : CmdWord} (h : 32 ≤ (wordAddr w).toNat) :
    decodeWord w = if (wordAddr w).toNat < 64 then .wRsvd32To63 (wordAddr w) (wordData w)
      else .wRsvd64To127 (wordAddr w) (wordData w) := by
  fun_cases decodeWord w
  case case33 h64 => rw [if_pos h64]
  case case34 h64 => rw [if_neg h64]
  all_goals omega

/-- The decoder reads a well-formed instruction back from its word. -/
theorem decodeWord_encode {i : Instr} (hwf : i.wf = true) : decodeWord (encode i) = i := by
  cases i with
  | wRsvd32To63 a d =>
    obtain ⟨h32, h64⟩ := (wRsvd32To63_wf a d).1 hwf
    rw [decodeWord_of_reserved (by simpa [Instr.address])]
    simp [Instr.address, Instr.dataByte, h64]
  | wRsvd64To127 a d =>
    have h64 := (wRsvd64To127_wf a d).1 hwf
    rw [decodeWord_of_reserved (by rw [wordAddr_encode, Instr.address]; omega)]
    simp [Instr.address, Instr.dataByte, h64]
  | wOct01 | wOct23 | wOct4n => simp [decodeWord, Instr.address, Instr.dataByte, octPairByte_fields]
  | wEoct => simp [decodeWord, Instr.address, Instr.dataByte, envOctByte_fields]
  | _ => simp [decodeWord, Instr.address, Instr.dataByte]

/-- Settles O1: each arm of the decoder keeps the word's address and byte, so the word encodes back; an instruction with
the word `w` is the one the decoder reads back from `w`. -/
theorem everyWordDecodesToOneInstruction : Obligations.EveryWordDecodesToOneInstruction := by
  intro w
  obtain ⟨hwf, haddr, -⟩ := decodeWord_wf_address_dataByte w
  refine ⟨decode_toNat w, hwf, haddr, encode_decodeWord w, fun i hi hencode => ?_⟩
  rw [← hencode, decodeWord_encode hi]

end Sys2Proof
end

section
/-! PROOFS. The enqueue call: what it answers for an address and a byte in range, below capacity and at it (R110). -/

namespace Sys2Proof.Machine

theorem pushWrite_of_lt (c : WriteCmd) {s : State} (h : s.writeQueue.length < s.settings.writeQueueCapacity) :
    pushWrite c s = { s with writeQueue := s.writeQueue ++ [c] } := if_pos h

theorem pushWrite_of_le (c : WriteCmd) {s : State} (h : s.settings.writeQueueCapacity ≤ s.writeQueue.length) :
    pushWrite c s = s := if_neg (Nat.not_lt.2 h)

/-- A 7-bit address and an 8-bit byte are in the ranges of R314, so the call is not refused. -/
theorem enqueueWrite_toNat (a : Addr) (d : Byte) (s : State) :
    enqueueWrite a.toNat d.toNat s = .next (pushWrite ⟨a, d⟩ s) := by
  have haddr : ¬ 127 < a.toNat := by omega
  have hdata : ¬ 255 < d.toNat := by omega
  rw [enqueueWrite, if_neg haddr, if_neg hdata]
  simp only [BitVec.ofNat_toNat, BitVec.setWidth_eq]

/-- Settles O44: the call answers the push of the pair, whose two cases are the two clauses. -/
theorem enqueueAppendsOrDrops : Obligations.EnqueueAppendsOrDrops :=
  fun a d s => ⟨pushWrite ⟨a, d⟩ s, enqueueWrite_toNat a d s, pushWrite_of_lt _, pushWrite_of_le _⟩

end Sys2Proof.Machine
end

section
/-! PROOFS. The increment stores of the tone channels and of the noise generator: what they answer, the cached step and
the word (R130 to R135). -/

namespace Sys2Proof

/-- The word of an instruction as a number (R90). -/
theorem encode_toNat (i : Instr) : (encode i).toNat = 256 * i.address.toNat + i.dataByte.toNat := by
  rw [Nat.mul_comm]
  exact word_toNat i.cmd

namespace Machine

/-! ### The tone channels -/

@[simp] theorem tincInstr_address_toNat (i : Chan) (d : Byte) : (tincInstr i d).address.toNat = i.index := by
  cases i <;> rfl

@[simp] theorem tincInstr_dataByte (i : Chan) (d : Byte) : (tincInstr i d).dataByte = d := by
  cases i <;> rfl

/-- The five tone increment writes are one store, at the channel's index (R130 to R134). -/
theorem exec_tincInstr (i : Chan) (d : Byte) (s : State) : exec (tincInstr i d) s = .next (setToneIncrement i d s) := by
  cases i <;> rfl

@[simp] theorem setToneIncrement_toneIncrement (i : Chan) (d : Byte) (s : State) :
    (setToneIncrement i d s).regs.toneIncrement = s.regs.toneIncrement.set i d := rfl

@[simp] theorem setToneIncrement_shiftedIncrement (i : Chan) (d : Byte) (s : State) :
    (setToneIncrement i d s).regs.shiftedIncrement =
      s.regs.shiftedIncrement.set i (pitchShift d (s.regs.toneOctave.get i)) := rfl

/-- Settles O11: the five writes are one store, which sets channel `i` in both arrays; the step is exact because a
pitch shift loses no bit. -/
theorem toneIncrementWrites : Obligations.ToneIncrementWrites := by
  intro i d s
  refine ⟨setToneIncrement i d s, exec_tincInstr i d s, ?increment, ?step, fun j hj => ?others, rfl, ?word⟩
  case increment => rw [setToneIncrement_toneIncrement, PerChan.get_set_self]
  case step => rw [setToneIncrement_shiftedIncrement, PerChan.get_set_self, pitchShift_toNat]
  case others => exact ⟨PerChan.get_set_ne _ _ hj, PerChan.get_set_ne _ _ hj⟩
  case word => rw [encode_toNat, tincInstr_address_toNat, tincInstr_dataByte]

/-! ### The noise generator -/

/-- Settles O12: the write is the noise increment store, and its step is exact because a pitch shift loses no bit. -/
theorem noiseIncrementWrite : Obligations.NoiseIncrementWrite :=
  fun d s => ⟨setNoiseIncrement d s, rfl, rfl, pitchShift_toNat d s.regs.noiseOctave, rfl, encode_toNat (.wNinc d)⟩

end Machine

end Sys2Proof
end

section
/-! PROOFS. The duty-cycle, noise-tap and static-volume stores: what they answer, what they leave and their words (R150
to R156, R160 to R164). -/

namespace Sys2Proof.Machine

/-! ### Duty cycles -/

@[simp] theorem dutyInstr_address_toNat (i : Chan) (d : Byte) : (dutyInstr i d).address.toNat = 9 + i.index := by
  cases i <;> rfl

@[simp] theorem dutyInstr_dataByte (i : Chan) (d : Byte) : (dutyInstr i d).dataByte = d := by
  cases i <;> rfl

/-- The five duty-cycle writes are one store, at the channel's index (R150 to R154). -/
theorem exec_dutyInstr (i : Chan) (d : Byte) (s : State) : exec (dutyInstr i d) s = .next (setDutyCycle i d s) := by
  cases i <;> rfl

@[simp] theorem setDutyCycle_dutyCycle (i : Chan) (d : Byte) (s : State) :
    (setDutyCycle i d s).regs.dutyCycle = s.regs.dutyCycle.set i d := rfl

/-- Settles O15: the five writes are one store, which sets the duty cycle of channel `i` alone. -/
theorem dutyCycleWrites : Obligations.DutyCycleWrites := by
  intro i d s
  refine ⟨setDutyCycle i d s, exec_dutyInstr i d s, ?duty, fun j hj => ?others, rfl, ?word⟩
  case duty => rw [setDutyCycle_dutyCycle, PerChan.get_set_self]
  case others => rw [setDutyCycle_dutyCycle, PerChan.get_set_ne _ _ hj]
  case word => rw [encode_toNat, dutyInstr_address_toNat, dutyInstr_dataByte]

/-! ### The noise tap -/

/-- W_NTAPL stores the tap with its low byte replaced (R155). -/
theorem exec_wNtapl (d : Byte) (s : State) :
    exec (.wNtapl d) s = .next (setNoiseTap (withLowByte s.regs.noiseXorTap d) s) := rfl

/-- W_NTAPH stores the tap with its high byte replaced (R156). -/
theorem exec_wNtaph (d : Byte) (s : State) :
    exec (.wNtaph d) s = .next (setNoiseTap (withHighByte s.regs.noiseXorTap d) s) := rfl

/-- Settles O16: both writes are the tap store, of the old tap with the one byte replaced. -/
theorem noiseTapWrites : Obligations.NoiseTapWrites := by
  intro d s
  constructor
  · exact ⟨_, exec_wNtapl d s, withLowByte_toNat s.regs.noiseXorTap d, rfl, encode_toNat (.wNtapl d)⟩
  · exact ⟨_, exec_wNtaph d s, withHighByte_toNat s.regs.noiseXorTap d, rfl, encode_toNat (.wNtaph d)⟩

/-! ### Static volumes -/

@[simp] theorem volInstr_address_toNat (i : Chan) (d : Byte) : (volInstr i d).address.toNat = 16 + i.index := by
  cases i <;> rfl

@[simp] theorem volInstr_dataByte (i : Chan) (d : Byte) : (volInstr i d).dataByte = d := by
  cases i <;> rfl

/-- The five static-volume writes are one store, at the channel's index (R160 to R164). -/
theorem exec_volInstr (i : Chan) (d : Byte) (s : State) : exec (volInstr i d) s = .next (setStaticVolume i d s) := by
  cases i <;> rfl

@[simp] theorem setStaticVolume_staticVolume (i : Chan) (d : Byte) (s : State) :
    (setStaticVolume i d s).regs.staticVolume = s.regs.staticVolume.set i d := rfl

/-- Settles O17: the five writes are one store, which sets the static volume of channel `i` alone. -/
theorem staticVolumeWrites : Obligations.StaticVolumeWrites := by
  intro i d s
  refine ⟨setStaticVolume i d s, exec_volInstr i d s, ?volume, fun j hj => ?others, rfl, ?word⟩
  case volume => rw [setStaticVolume_staticVolume, PerChan.get_set_self]
  case others => rw [setStaticVolume_staticVolume, PerChan.get_set_ne _ _ hj]
  case word => rw [encode_toNat, volInstr_address_toNat, volInstr_dataByte]

end Sys2Proof.Machine
end

section
/-! PROOFS. The stores of the envelopes' load buffer: what they answer, what they leave and their words (R190, R191). -/

namespace Sys2Proof.Machine

/-- W_ELDL stores the load buffer with its low byte replaced (R190). -/
theorem exec_wEldl (d : Byte) (s : State) :
    exec (.wEldl d) s = .next (setEnvLoadBuffer (withLowByte s.regs.envLoadBuffer d) s) := rfl

/-- W_ELDH stores the load buffer with its high byte replaced (R191). -/
theorem exec_wEldh (d : Byte) (s : State) :
    exec (.wEldh d) s = .next (setEnvLoadBuffer (withHighByte s.regs.envLoadBuffer d) s) := rfl

/-- Settles O19: both writes are the load-buffer store, of the old buffer with the one byte replaced. -/
theorem loadBufferWrites : Obligations.LoadBufferWrites := by
  intro d s
  constructor
  · exact ⟨_, exec_wEldl d s, withLowByte_toNat s.regs.envLoadBuffer d, rfl, encode_toNat (.wEldl d)⟩
  · exact ⟨_, exec_wEldh d s, withHighByte_toNat s.regs.envLoadBuffer d, rfl, encode_toNat (.wEldh d)⟩

end Sys2Proof.Machine
end

section
/-! PROOFS. The tone step of the update cycle: the accumulators it leaves and the tone bits read from them (R210,
R211). -/

namespace Sys2Proof.Machine

theorem toneBit_eq_true_iff (acc : Half) (duty : Byte) :
    toneBit acc duty = true ↔ acc.toNat / 256 < duty.toNat := decide_eq_true_iff

/-- Only the tone step of an update cycle reaches the tone accumulators (R210). -/
@[simp] theorem updateCycle_tonePhaseAcc (s : State) :
    (updateCycle s).synth.tonePhaseAcc = (toneStep s).synth.tonePhaseAcc := by
  rw [updateCycle_synth, envUpdate_tonePhaseAcc, envUpdate_tonePhaseAcc, noiseStep_tonePhaseAcc]

/-- The mixer's tone bit of a channel compares the accumulator the update cycle leaves with the duty cycle (R211). -/
theorem toneBits_toneStep_get (s : State) (i : Chan) : (toneBits (toneStep s)).get i =
    toneBit ((updateCycle s).synth.tonePhaseAcc.get i) (s.regs.dutyCycle.get i) := by
  rw [updateCycle_tonePhaseAcc, toneBits, PerChan.get_ofFn, toneStep_regs]

/-- Settles O26: the noise and envelope steps keep the accumulators of the tone step, so the bit the mixer uses is read
from those the update cycle leaves; a 16-bit addition discards the carry. -/
theorem toneAccumulatorAndBit : Obligations.ToneAccumulatorAndBit := by
  intro s i
  constructor
  · rw [updateCycle_tonePhaseAcc, toneStep_tonePhaseAcc, BitVec.toNat_add]
  · rw [toneBits_toneStep_get, toneBit_eq_true_iff]

end Sys2Proof.Machine
end

section
/-! PROOFS. No operation of the core faults, stops or is refused (R310). -/

namespace Sys2Proof.Machine

theorem produceSample_of_runTicks {s t : State} (h : runTicks (ticksDue s) (beginSample s) = .next t) :
    produceSample s = .next (endSample (ticksDue s) t, sampleValue (ticksDue s) t) := by
  simp [produceSample, h]

/-- Every sample answers a next state and a value, because the run of its ticks answers a next state. -/
theorem produceSample_next (s : State) : ∃ t v, produceSample s = .next (t, v) := by
  obtain ⟨_, hrun, -⟩ := runTicks_writeQueue (ticksDue s) (beginSample s)
  exact ⟨_, _, produceSample_of_runTicks hrun⟩

theorem fault_isEmpty : IsEmpty Fault := ⟨fun f => nomatch f⟩

/-- Settles O7: a tick answers a next state because its register write does, a run because its ticks do, and a sample
because its run does. -/
theorem nothingFaultsOrStops : Obligations.NothingFaultsOrStops := by
  refine ⟨fun i s => ?write, fun s => ?tick, fun n s => ?run, produceSample_next, fault_isEmpty⟩
  case write =>
    obtain ⟨t, hexec, -⟩ := exec_next i s
    exact ⟨t, hexec⟩
  case tick =>
    obtain ⟨t, hstep, -⟩ := step_writeQueue s
    exact ⟨t, hstep⟩
  case run =>
    obtain ⟨t, hrun, -⟩ := runTicks_writeQueue n s
    exact ⟨t, hrun⟩

end Sys2Proof.Machine
end

section
/-! PROOFS. The decoder on numbers: the table words and pairs of the well-formed instructions, and
what is no write command (R90, R91, R314). -/

namespace Sys2Proof

theorem decodeTableWord_toNat (w : CmdWord) : decodeTableWord 15 w.toNat = some (decodeWord w) := by
  rw [decodeTableWord, Nat.mod_eq_of_lt w.isLt, decode_toNat]
  rfl

/-- The pair of a queue entry decodes as the entry's word does. -/
theorem decodePair_toNat (c : WriteCmd) : decodePair c.addr.toNat c.data.toNat = .ok (decodeWord c.word) := by
  have haddr : ¬ 127 < c.addr.toNat := by omega
  have hdata : ¬ 255 < c.data.toNat := by omega
  rw [decodePair, if_neg haddr, if_neg hdata, ← word_toNat, decode_toNat]

/-- Settles O2: the three decoders read the same word, and the word of a well-formed instruction is read back. -/
theorem decodeInvertsEncode : Obligations.DecodeInvertsEncode := by
  intro i hwf
  have hback := decodeWord_encode hwf
  refine ⟨?word, ?table, ?pair⟩
  case word => rw [decode_toNat, hback]
  case table => rw [decodeTableWord_toNat, hback]
  case pair => exact (decodePair_toNat i.cmd).trans (congrArg Except.ok hback)

/-- A pair of numbers within the ranges of R314 is the pair of a queue entry. -/
theorem exists_writeCmd_of_le {a d : Nat} (ha : a ≤ 127) (hd : d ≤ 255) :
    ∃ c : WriteCmd, c.addr.toNat = a ∧ c.data.toNat = d :=
  ⟨⟨BitVec.ofNat 7 a, BitVec.ofNat 8 d⟩, Nat.mod_eq_of_lt (by omega), Nat.mod_eq_of_lt (by omega)⟩

/-- Settles O3: the refusals are the decoder's own tests, and a pair within the ranges is that of a queue entry, whose
word decodes to an instruction with its address and byte. -/
theorem numbersOutsideTheInterfaceAreRejected : Obligations.NumbersOutsideTheInterfaceAreRejected := by
  refine ⟨fun w hw => if_neg (by omega), fun a d ha => if_pos ha, fun a d ha hd => ?data, fun a d ha hd => ?inside⟩
  case data => rw [decodePair, if_neg (by omega), if_pos hd]
  case inside =>
    obtain ⟨c, rfl, rfl⟩ := exists_writeCmd_of_le ha hd
    obtain ⟨-, haddr, hdata⟩ := decodeWord_wf_address_dataByte c.word
    exact ⟨_, decodePair_toNat c, by rw [haddr, wordAddr_word], by rw [hdata, wordData_word]⟩

/-- Settles O4: the decoder runs on the sixteen words. -/
theorem specWordsDecodeAsListed : Obligations.SpecWordsDecodeAsListed := by
  unfold Obligations.SpecWordsDecodeAsListed
  decide

end Sys2Proof
end

section
/-! PROOFS. The tick: what its drain leaves, what its steps 2 to 5 do on and off the update boundary, and how the queue
fills and empties (R110 to R116, R280, R281). -/

namespace Sys2Proof.Machine

/-! ### The drain -/

/-- A drain takes the head of the queue and reaches nothing else but the register file and the synthesis state. -/
theorem drain_next {s u : State} (h : drain s = .next u) :
    RegSynthOnly { s with writeQueue := s.writeQueue.tail } u := by
  obtain ⟨hnil, hdrain⟩ | ⟨c, rest, hcons, hdrain⟩ := drain_cases s
  · rw [hdrain] at h
    cases h
    rw [RegSynthOnly, hnil, List.tail_nil, ← hnil]
  · obtain ⟨v, hexec, honly⟩ := exec_next (decodeWord c.word) { s with writeQueue := rest }
    rw [hdrain, hexec] at h
    cases h
    rwa [hcons]

theorem step_of_nil {s : State} (h : s.writeQueue = []) : step s = .next (finishTick s) := by
  obtain ⟨-, hdrain⟩ | ⟨c, rest, hcons, -⟩ := drain_cases s
  · exact step_of_drain hdrain
  · rw [h] at hcons
    cases hcons

/-- The queue entry of a table word is the one the word packs. -/
theorem tableCmd_toNat (w : CmdWord) : tableCmd 15 w.toNat = some (WriteCmd.ofWord w) := by
  rw [tableCmd, Nat.mod_eq_of_lt w.isLt, if_pos w.isLt, BitVec.ofNat_toNat, BitVec.setWidth_eq]

/-- Settles O5: the head's word decodes to the instruction it was made from, and a table word is placed as its entry. -/
theorem stepRunsTheOldestWrite : Obligations.StepRunsTheOldestWrite := by
  refine fun s i hwf => ⟨fun rest hq => ?_, ?_⟩
  · obtain ⟨v, hexec, hstep, -⟩ := step_of_cons hq
    have hexec' : exec i { s with writeQueue := rest } = .next v := by
      rw [← hexec]
      exact congrArg (exec · _) (decodeWord_encode hwf).symm
    rw [hstep, hexec']
  · rw [State.withFetchWord, tableCmd_toNat]
    exact congrArg (placeWrite · s) (ofWord_word i.cmd)

/-- Settles O23: a reserved write answers its state, and from address 32 on an entry decodes to a reserved write. -/
theorem reservedWritesOnlyTakeTheirTick : Obligations.ReservedWritesOnlyTakeTheirTick := by
  refine ⟨fun a d s => ⟨rfl, rfl⟩, fun s c rest hc hq => ?_⟩
  obtain ⟨v, hexec, hstep, -⟩ := step_of_cons hq
  rw [decodeWord_of_reserved (by rwa [wordAddr_word])] at hexec
  split_ifs at hexec <;> cases hexec <;> exact hstep

/-! ### Steps 2 to 5 of a tick -/

theorem period_eq (s : State) : period s = s.clockCycle.toNat / 512 := Nat.shiftRight_eq_div_pow ..

theorem updateIfDue_of_due {s : State} (h : s.clockCycle.toNat % 512 = 0) : updateIfDue s = updateCycle s :=
  if_pos (beq_iff_eq.2 h)

theorem updateIfDue_of_not_due {s : State} (h : s.clockCycle.toNat % 512 ≠ 0) : updateIfDue s = s :=
  if_neg (mt beq_iff_eq.1 h)

theorem pwmOutput_of_approx {s : State} (h : s.settings.outputType = .approx) :
    pwmOutput s = s.out.delayRing.get (s.clockCycle.toNat / 512) := by
  rw [pwmOutput, h, ← period_eq]
  rfl

theorem pwmOutput_of_exact {s : State} (h : s.settings.outputType = .exact) :
    pwmOutput s = if s.clockCycle.toNat % 256 > s.out.delayRing.get (s.clockCycle.toNat / 512) then 0
      else 2 ^ s.settings.outputBitdepth - 1 := by
  rw [pwmOutput, h, ← period_eq]
  rfl

/-- After the update, the rest of a tick writes the output, the record and the clock. -/
theorem finishTick_eq (s : State) : finishTick s = { updateIfDue s with
    clockCycle := s.clockCycle + 1
    out := { (updateIfDue s).out with currentOutput := pwmOutput (updateIfDue s) }
    recorded := (finishTick s).recorded } := by
  rw [finishTick_recorded, finishTick_currentOutput, finishTick, recordOutput_eq]
  simp [advanceClock, pwmStage]

/-- Settles O6: with no entry the drain is skipped, and the outcome is `finishTick`, whose update state is `u`. -/
theorem tickWithoutAWrite : Obligations.TickWithoutAWrite := by
  intro s hq
  refine ⟨finishTick s, updateIfDue s, step_of_nil hq, updateIfDue_of_due, updateIfDue_of_not_due, ?clock,
    fun h => ?approx, fun h => ?exact, fun h => ?nearest, fun h => ?mean, ?frame⟩
  case clock => rw [finishTick_clockCycle, BitVec.toNat_add]; rfl
  case approx =>
    rw [finishTick_currentOutput, pwmOutput_of_approx (by rwa [updateIfDue_settings]), updateIfDue_clockCycle]
  case exact =>
    rw [finishTick_currentOutput, pwmOutput_of_exact (by rwa [updateIfDue_settings]), updateIfDue_clockCycle,
      updateIfDue_settings]
  case nearest => simp [finishTick_recorded, h]
  case mean => rw [finishTick_recorded, if_pos h]
  case frame => simpa using finishTick_eq s

/-- Settles O10: off the boundary the update is skipped, so the rest of the tick starts from what the drain left. -/
theorem updatesHappenOnlyOnTheBoundary : Obligations.UpdatesHappenOnlyOnTheBoundary := by
  intro s u t hclock hdrain hstep
  have honly := drain_next hdrain
  have hu : u.clockCycle.toNat % 512 ≠ 0 := by rwa [honly]
  have ht : t = finishTick u := by
    rw [step_of_drain hdrain] at hstep
    cases hstep
    rfl
  subst ht
  rw [finishTick_synth, finishTick_channelOutput, finishTick_delayRing, updateIfDue_of_not_due hu]
  refine ⟨finishTick_regs u, rfl, ?_⟩
  rw [honly]
  simp

/-! ### The queue fills and empties -/

/-- Pushing appends as many of the writes as there is room for. -/
theorem foldl_pushWrite (cs : List WriteCmd) (s : State) : cs.foldl (fun t c => pushWrite c t) s =
    { s with writeQueue := s.writeQueue ++ cs.take (s.settings.writeQueueCapacity - s.writeQueue.length) } := by
  induction cs generalizing s with
  | nil => simp
  | cons c cs ih =>
    rw [List.foldl_cons, ih]
    obtain ⟨hroom, hpush⟩ | ⟨hfull, hpush⟩ := pushWrite_cases c s
    · obtain ⟨m, hm⟩ := Nat.exists_eq_add_of_lt hroom
      have hsub : s.settings.writeQueueCapacity - s.writeQueue.length = m + 1 := by omega
      have hsub' : s.settings.writeQueueCapacity - (s.writeQueue.length + 1) = m := by omega
      simp [hpush, hsub, hsub']
    · simp [hpush, Nat.sub_eq_zero_of_le hfull]

/-- Settles O9: pushes append while there is room, and each tick of a run takes one entry. -/
theorem capacityBoundsTheQueue : Obligations.CapacityBoundsTheQueue := by
  refine ⟨fun s cs hq => ?push, fun s t n hrun => ?run⟩
  case push => simp [foldl_pushWrite, hq]
  case run =>
    obtain ⟨u, hu, hqueue⟩ := runTicks_writeQueue n s
    rw [hrun] at hu
    cases hu
    refine ⟨hqueue, ?_⟩
    rw [hasPendingWrites, hqueue, List.length_drop, decide_eq_true_iff]
    omega

end Sys2Proof.Machine
end

section
/-! PROOFS. The octave writes of the tone channels and of the noise generator (R136 to R138). -/

namespace Sys2Proof.Machine

/-- `t` is `s` but for the tone octaves, steps and accumulators, which are all that a tone nibble reaches. -/
def TonePitchOnly (s t : State) : Prop :=
  t = { s with
    regs := { s.regs with toneOctave := t.regs.toneOctave, shiftedIncrement := t.regs.shiftedIncrement }
    synth := { s.synth with tonePhaseAcc := t.synth.tonePhaseAcc } }

theorem TonePitchOnly.trans {s t u : State} (hst : TonePitchOnly s t) (htu : TonePitchOnly t u) :
    TonePitchOnly s u := by
  unfold TonePitchOnly at *
  rw [htu, hst]

theorem TonePitchOnly.toneIncrement_eq {s t : State} (h : TonePitchOnly s t) :
    t.regs.toneIncrement = s.regs.toneIncrement := by
  rw [h]

/-! ### One nibble -/

theorem writeToneNibble_tonePitchOnly (i : Chan) (o : BitVec 3) (rst : Bool) (s : State) :
    TonePitchOnly s (writeToneNibble i o rst s) := by
  obtain ⟨_, _, _, h, -⟩ := writeToneNibble_spec i o rst s
  rw [h]
  rfl

theorem writeToneNibbles_tonePitchOnly (i k : Chan) (o p : BitVec 3) (r q : Bool) (s : State) :
    TonePitchOnly s (writeToneNibble k p q (writeToneNibble i o r s)) :=
  (writeToneNibble_tonePitchOnly i o r s).trans (writeToneNibble_tonePitchOnly k p q _)

theorem writeToneNibble_applied (i : Chan) (o : BitVec 3) (rst : Bool) (s : State) :
    ToneNibbleApplied i o rst s (writeToneNibble i o rst s) := by
  obtain ⟨_, _, _, h, hoct, hsame, hnew, hacc, -⟩ := writeToneNibble_spec i o rst s
  rw [h]
  exact ⟨hoct, hsame, hnew, hacc⟩

theorem writeToneNibble_same {i j : Chan} (hj : j ≠ i) (o : BitVec 3) (rst : Bool) (s : State) :
    ToneNibbleSame j s (writeToneNibble i o rst s) := by
  obtain ⟨_, _, _, h, -, -, -, -, hothers⟩ := writeToneNibble_spec i o rst s
  rw [h]
  exact hothers j hj

/-! ### One nibble after another -/

theorem ToneNibbleSame.trans {i : Chan} {s t u : State} (hst : ToneNibbleSame i s t) (htu : ToneNibbleSame i t u) :
    ToneNibbleSame i s u := by
  obtain ⟨hoct, hstep, hacc⟩ := hst
  obtain ⟨hoct', hstep', hacc'⟩ := htu
  exact ⟨hoct'.trans hoct, hstep'.trans hstep, hacc'.trans hacc⟩

theorem ToneNibbleApplied.trans_same {i : Chan} {o : BitVec 3} {rst : Bool} {s t u : State}
    (hst : ToneNibbleApplied i o rst s t) (htu : ToneNibbleSame i t u) : ToneNibbleApplied i o rst s u := by
  obtain ⟨hoct, hstep, hacc⟩ := htu
  unfold ToneNibbleApplied
  rwa [hoct, hstep, hacc]

theorem ToneNibbleSame.trans_applied {i : Chan} {o : BitVec 3} {rst : Bool} {s t u : State}
    (hst : ToneNibbleSame i s t) (hinc : t.regs.toneIncrement = s.regs.toneIncrement)
    (htu : ToneNibbleApplied i o rst t u) : ToneNibbleApplied i o rst s u := by
  obtain ⟨hoct, hstep, hacc⟩ := hst
  unfold ToneNibbleApplied at htu
  rwa [hoct, hstep, hacc, hinc] at htu

/-- The nibbles of two channels, one written after the other, are applied independently (R136, R137). -/
theorem writeToneNibble_writeToneNibble {i k : Chan} (hki : k ≠ i) (o p : BitVec 3) (r q : Bool) (s : State) :
    let t := writeToneNibble k p q (writeToneNibble i o r s)
    ToneNibbleApplied i o r s t ∧ ToneNibbleApplied k p q s t ∧
      (∀ j, j ≠ i → j ≠ k → ToneNibbleSame j s t) ∧ TonePitchOnly s t := by
  have honly := writeToneNibble_tonePitchOnly i o r s
  refine ⟨?first, ?second, fun j hji hjk => ?others, writeToneNibbles_tonePitchOnly ..⟩
  case first => exact (writeToneNibble_applied i o r s).trans_same (writeToneNibble_same hki.symm ..)
  case second =>
    exact (writeToneNibble_same hki o r s).trans_applied honly.toneIncrement_eq (writeToneNibble_applied ..)
  case others => exact (writeToneNibble_same hji o r s).trans (writeToneNibble_same hjk ..)

/-- Settles O13: both registers write the nibbles of two channels, one after the other. -/
theorem toneOctaveWrites : Obligations.ToneOctaveWrites := by
  intro o p r q s
  constructor
  · obtain ⟨h0, h1, hothers, honly⟩ := writeToneNibble_writeToneNibble (i := .c0) (k := .c1) nofun o p r q s
    exact ⟨_, rfl, h0, h1, hothers _ nofun nofun, hothers _ nofun nofun, hothers _ nofun nofun, honly⟩
  · obtain ⟨h2, h3, hothers, honly⟩ := writeToneNibble_writeToneNibble (i := .c2) (k := .c3) nofun o p r q s
    exact ⟨_, rfl, h2, h3, hothers _ nofun nofun, hothers _ nofun nofun, hothers _ nofun nofun, honly⟩

/-! ### Address 8 -/

/-- Settles O14: the tone nibble of channel 4 leaves the noise generator, and the noise nibble leaves the channels. -/
theorem octaveFourAndNoiseWrite : Obligations.OctaveFourAndNoiseWrite := by
  intro o p r q s
  have htone := writeToneNibble_applied .c4 o r s
  have hothers {i : Chan} (hi : i ≠ .c4) := writeToneNibble_same hi o r s
  have honly := writeToneNibble_tonePitchOnly .c4 o r s
  refine ⟨writeNoiseNibble p q (writeToneNibble .c4 o r s), rfl, ?_⟩
  generalize writeToneNibble .c4 o r s = u at htone hothers honly ⊢
  obtain ⟨step, acc, hnoise, hsame, hnew, hacc⟩ := writeNoiseNibble_spec p q u
  rw [hnoise]
  refine ⟨htone, fun i hi => hothers hi, rfl, ?_⟩
  rw [honly] at hsame hnew hacc ⊢
  exact ⟨hsame, hnew, hacc, rfl⟩

end Sys2Proof.Machine
end

section
/-! PROOFS. The channel-config store: what it answers, what it leaves and its word (R165 to R169). -/

namespace Sys2Proof.Machine

@[simp] theorem cfgInstr_address_toNat (i : Chan) (d : Byte) : (cfgInstr i d).address.toNat = 21 + i.index := by
  cases i <;> rfl

@[simp] theorem cfgInstr_dataByte (i : Chan) (d : Byte) : (cfgInstr i d).dataByte = d := by
  cases i <;> rfl

/-- The five config writes are one store, at the channel's index (R165 to R169). -/
theorem exec_cfgInstr (i : Chan) (d : Byte) (s : State) : exec (cfgInstr i d) s = .next (setChannelConfig i d s) := by
  cases i <;> rfl

@[simp] theorem setChannelConfig_channelConfig (i : Chan) (d : Byte) (s : State) :
    (setChannelConfig i d s).regs.channelConfig = s.regs.channelConfig.set i d := rfl

/-- Settles O18: the five writes are one store, which sets the config of channel `i` alone. -/
theorem channelConfigWrites : Obligations.ChannelConfigWrites := by
  intro i d s
  refine ⟨setChannelConfig i d s, exec_cfgInstr i d s, ?config, fun j hj => ?others, rfl, ?word⟩
  case config => rw [setChannelConfig_channelConfig, PerChan.get_set_self]
  case others => rw [setChannelConfig_channelConfig, PerChan.get_set_ne _ _ hj]
  case word => rw [encode_toNat, cfgInstr_address_toNat, cfgInstr_dataByte]

end Sys2Proof.Machine
end

section
/-! PROOFS. The envelope registers: the increment and octave stores and the shape write (R192 to R200). -/

namespace Sys2Proof.Machine

/-! ### Increments -/

/-- The two envelope increment writes are one store, at the generator (R197, R198). -/
theorem exec_eincInstr (g : Gen) (d : Byte) (s : State) : exec (eincInstr g d) s = .next (setEnvIncrement g d s) := by
  cases g <;> rfl

@[simp] theorem setEnvIncrement_envIncrement (g : Gen) (d : Byte) (s : State) :
    (setEnvIncrement g d s).regs.envIncrement = s.regs.envIncrement.set g d := rfl

@[simp] theorem setEnvIncrement_envShiftedIncrement (g : Gen) (d : Byte) (s : State) :
    (setEnvIncrement g d s).regs.envShiftedIncrement =
      s.regs.envShiftedIncrement.set g (envShift d (s.regs.envOctave.get g)) := rfl

/-- Settles O20: the two writes are one store, which sets generator `g` in both arrays; the step is exact because the
shift loses no bit. -/
theorem envelopeIncrementWrites : Obligations.EnvelopeIncrementWrites := by
  intro g d s
  refine ⟨setEnvIncrement g d s, exec_eincInstr g d s, ?increment, ?step, fun k hk => ?other, rfl⟩
  case increment => rw [setEnvIncrement_envIncrement, PerGen.get_set_self]
  case step => rw [setEnvIncrement_envShiftedIncrement, PerGen.get_set_self, envShift_toNat]
  case other => exact ⟨PerGen.get_set_ne _ _ hk, PerGen.get_set_ne _ _ hk⟩

/-! ### Octaves -/

/-- All an envelope octave's write can do: new octaves and steps that differ only at its generator. -/
theorem setEnvOctave_spec (g : Gen) (o : BitVec 4) (s : State) :
    ∃ (oct : PerGen (BitVec 4)) (steps : PerGen Half),
      setEnvOctave g o s = { s with regs := { s.regs with envOctave := oct, envShiftedIncrement := steps } } ∧
      oct.get g = o ∧ (o = s.regs.envOctave.get g → steps.get g = s.regs.envShiftedIncrement.get g) ∧
      (o ≠ s.regs.envOctave.get g →
        (steps.get g).toNat = (s.regs.envIncrement.get g).toNat * 2 ^ (1 + o.toNat % 8)) ∧
      ∀ k, k ≠ g → oct.get k = s.regs.envOctave.get k ∧ steps.get k = s.regs.envShiftedIncrement.get k := by
  obtain ⟨h, e⟩ | ⟨h, e⟩ := setEnvOctave_cases g o s <;> rw [e]
  · exact ⟨_, _, rfl, h.symm, fun _ => rfl, fun hne => absurd h hne, fun _ _ => ⟨rfl, rfl⟩⟩
  · refine ⟨_, _, rfl, PerGen.get_set_self .., fun heq => absurd heq h, fun _ => ?_,
      fun _ hk => ⟨PerGen.get_set_ne _ _ hk, PerGen.get_set_ne _ _ hk⟩⟩
    rw [PerGen.get_set_self, envShift_toNat]

/-- Settles O21: the write of B's nibble leaves generator A, and A's leaves B. -/
theorem envelopeOctaveWrite : Obligations.EnvelopeOctaveWrite := by
  intro a b s
  refine ⟨setEnvOctave .B b (setEnvOctave .A a s), rfl, ?_⟩
  obtain ⟨oct, steps, hA, hoct, hsame, hnew, hother⟩ := setEnvOctave_spec .A a s
  obtain ⟨oct', steps', hB, hoct', hsame', hnew', hother'⟩ := setEnvOctave_spec .B b (setEnvOctave .A a s)
  rw [hB]
  rw [hA] at hsame' hnew' hother' ⊢
  obtain ⟨hkeepOct, hkeepStep⟩ := hother' .A nofun
  obtain ⟨hsOct, hsStep⟩ := hother .B nofun
  simp only at hkeepOct hkeepStep hsame' hnew' ⊢
  rw [hsOct] at hsame' hnew'
  rw [hsStep] at hsame'
  refine ⟨hkeepOct.trans hoct, hoct', fun g hg => ?same, fun g hg => ?new, trivial⟩
  case same =>
    cases g
    · rw [hkeepStep]; exact hsame (by rw [← hg, hkeepOct, hoct])
    · exact hsame' (by rw [← hg, hoct'])
  case new =>
    cases g
    · rw [hkeepOct, hoct] at hg ⊢; rw [hkeepStep]; exact hnew hg
    · rw [hoct'] at hg ⊢; exact hnew' hg

/-! ### Shape -/

/-- A generator after a shape write (R193 to R196): reloaded and re-armed with its reset bit, else only its slope
takes the attack edge. -/
def ShapeApplied (g : Gen) (d : Byte) (s t : State) : Prop :=
  (resetBit g d = false → t.synth.envState.get g = s.synth.envState.get g ∧
    t.synth.envPhaseAcc.get g = s.synth.envPhaseAcc.get g ∧ t.synth.envHalted.get g = s.synth.envHalted.get g ∧
    t.synth.envSlope.get g = slopeAfterEdge g s.regs.envShape d (s.synth.envSlope.get g)) ∧
  (resetBit g d = true → t.synth.envState.get g = loadState s.regs.envLoadBuffer ∧
    t.synth.envPhaseAcc.get g = loadPhase s.regs.envLoadBuffer ∧ t.synth.envHalted.get g = false ∧
    t.synth.envSlope.get g = attackPolarity s.params (attackBit g d))

/-- `t` is `s` but for the shape and the envelopes' state, phase, halt and slope, which are all that a shape write
reaches. -/
def ShapeOnly (d : Byte) (s t : State) : Prop :=
  t = { s with
    regs := { s.regs with envShape := d }
    synth := { s.synth with
      envState := t.synth.envState
      envPhaseAcc := t.synth.envPhaseAcc
      envHalted := t.synth.envHalted
      envSlope := t.synth.envSlope } }

/-- All the reload of one generator can do. -/
theorem reloadEnvelope_spec (g : Gen) (d : Byte) (s : State) :
    ∃ (state : PerGen Byte) (phase : PerGen Half) (halted slope : PerGen Bool),
      reloadEnvelope g d s = { s with synth := { s.synth with
        envState := state, envPhaseAcc := phase, envHalted := halted, envSlope := slope } } ∧
      (resetBit g d = false → state.get g = s.synth.envState.get g ∧ phase.get g = s.synth.envPhaseAcc.get g ∧
        halted.get g = s.synth.envHalted.get g ∧ slope.get g = s.synth.envSlope.get g) ∧
      (resetBit g d = true → state.get g = loadState s.regs.envLoadBuffer ∧
        phase.get g = loadPhase s.regs.envLoadBuffer ∧ halted.get g = false ∧
        slope.get g = attackPolarity s.params (attackBit g d)) ∧
      ∀ k, k ≠ g → state.get k = s.synth.envState.get k ∧ phase.get k = s.synth.envPhaseAcc.get k ∧
        halted.get k = s.synth.envHalted.get k ∧ slope.get k = s.synth.envSlope.get k := by
  obtain ⟨h, e⟩ | ⟨h, e⟩ := reloadEnvelope_cases g d s
  · exact ⟨_, _, _, _, e, by simp [h]⟩
  · exact ⟨_, _, _, _, e, by simp +contextual [h, PerGen.get_set]⟩

/-- All a shape write can do: the byte is stored, and each generator takes its own edge, reload and re-arm. -/
theorem exec_wEshape (d : Byte) (s : State) :
    ∃ t, exec (.wEshape d) s = .next t ∧ ShapeOnly d s t ∧ ∀ g, ShapeApplied g d s t := by
  have hlatch (g : Gen) : (storeShape d (latchAttackEdges d s)).synth.envSlope.get g =
      slopeAfterEdge g s.regs.envShape d (s.synth.envSlope.get g) := PerGen.get_ofFn ..
  obtain ⟨stA, phA, haA, slA, hA, hkeepA, hloadA, hotherA⟩ :=
    reloadEnvelope_spec .A d (storeShape d (latchAttackEdges d s))
  obtain ⟨stB, phB, haB, slB, hB, hkeepB, hloadB, hotherB⟩ :=
    reloadEnvelope_spec .B d (reloadEnvelope .A d (storeShape d (latchAttackEdges d s)))
  refine ⟨_, rfl, ?_⟩
  rw [hB]
  rw [hA] at hkeepB hloadB hotherB ⊢
  refine ⟨rfl, fun g => ?_⟩
  obtain ⟨hstB, hphB, hhaB, hslB⟩ := hotherA .B nofun
  obtain ⟨hstA, hphA, hhaA, hslA⟩ := hotherB .A nofun
  cases g with
  | A =>
    simp only [ShapeApplied, hstA, hphA, hhaA, hslA, ← hlatch]
    exact ⟨hkeepA, hloadA⟩
  | B =>
    simp only [hstB, hphB, hhaB, hslB, hlatch] at hkeepB
    exact ⟨hkeepB, hloadB⟩

theorem loadState_toNat (buf : Half) : (loadState buf).toNat = buf.toNat / 256 := highByte_toNat buf

theorem loadPhase_toNat (buf : Half) : (loadPhase buf).toNat = buf.toNat % 256 * 256 := by
  simp [loadPhase, append_toNat]

/-- R99: a generator's reset bit is bit 3 of its nibble, and its attack bit is bit 2. -/
theorem resetBit_eq (g : Gen) (d : Byte) : resetBit g d = d.getLsbD (genNibble g + 3) := by
  cases g <;> rfl

theorem attackBit_eq (g : Gen) (d : Byte) : attackBit g d = d.getLsbD (genNibble g + 2) := by
  cases g <;> rfl

/-- An attack edge toggles the slope (R193). -/
theorem slopeAfterEdge_eq (g : Gen) (old new : Byte) (slope : Bool) :
    slopeAfterEdge g old new slope = xor slope (xor (attackBit g old) (attackBit g new)) := by
  unfold slopeAfterEdge attackEdge
  cases slope <;> cases attackBit g old <;> cases attackBit g new <;> rfl

/-- Settles O22: each generator's clauses are those of `ShapeApplied`, its bits read at the places of R99. -/
theorem envelopeShapeWrite : Obligations.EnvelopeShapeWrite := by
  intro d s
  obtain ⟨t, hexec, honly, happlied⟩ := exec_wEshape d s
  have hshape : t.regs.envShape = d := by rw [honly]
  refine ⟨t, hexec, hshape, fun g => ?_, honly⟩
  obtain ⟨hkeep, hload⟩ := happlied g
  rw [← resetBit_eq, ← attackBit_eq, ← attackBit_eq, ← slopeAfterEdge_eq]
  refine ⟨hkeep, fun hreset => ?_⟩
  obtain ⟨hstate, hphase, hhalted, hslope⟩ := hload hreset
  exact ⟨by rw [hstate, loadState_toNat], by rw [hphase, loadPhase_toNat], hhalted, hslope⟩

end Sys2Proof.Machine
end

section
/-! PROOFS. Register writes as a whole: what they reach of the synthesis state, and that a repeated write leaves the
same state (R56, R76). -/

namespace Sys2Proof.Machine

/-! ### What a write reaches of the synthesis state -/

/-- `t` has the synthesis state of `s` but for the accumulators of tone and noise. -/
def AccumulatorsOnly (s t : State) : Prop :=
  t.synth = { s.synth with tonePhaseAcc := t.synth.tonePhaseAcc, noisePhaseAcc := t.synth.noisePhaseAcc }

/-- `t` has the synthesis state of `s` but for the envelopes' state, phase, halt and slope. -/
def EnvelopesOnly (s t : State) : Prop :=
  t.synth = { s.synth with
    envState := t.synth.envState
    envPhaseAcc := t.synth.envPhaseAcc
    envHalted := t.synth.envHalted
    envSlope := t.synth.envSlope }

theorem TonePitchOnly.accumulatorsOnly {s t : State} (h : TonePitchOnly s t) : AccumulatorsOnly s t := by
  rw [AccumulatorsOnly, h]

theorem ShapeOnly.envelopesOnly {d : Byte} {s t : State} (h : ShapeOnly d s t) : EnvelopesOnly s t := by
  rw [EnvelopesOnly, h]

/-- All a register write can do to the synthesis state: nothing, or at addresses 6 to 8 set accumulators, or at address
28 set envelopes. -/
theorem exec_synth {i : Instr} {s t : State} (h : exec i s = .next t) :
    t.synth = s.synth ∨
    (i.address.toNat = 6 ∨ i.address.toNat = 7 ∨ i.address.toNat = 8) ∧ AccumulatorsOnly s t ∨
    i.address.toNat = 28 ∧ EnvelopesOnly s t := by
  cases i with
  | wOct01 =>
    cases h
    exact .inr (.inl ⟨.inl rfl, (writeToneNibbles_tonePitchOnly ..).accumulatorsOnly⟩)
  | wOct23 =>
    cases h
    exact .inr (.inl ⟨.inr (.inl rfl), (writeToneNibbles_tonePitchOnly ..).accumulatorsOnly⟩)
  | wOct4n o r p q =>
    cases h
    have htone := (writeToneNibble_tonePitchOnly .c4 o r s).accumulatorsOnly
    obtain ⟨_, _, hnoise, -⟩ := writeNoiseNibble_spec p q (writeToneNibble .c4 o r s)
    refine .inr (.inl ⟨.inr (.inr rfl), ?_⟩)
    rw [AccumulatorsOnly, hnoise, htone]
  | wEshape d =>
    obtain ⟨u, hexec, honly, -⟩ := exec_wEshape d s
    rw [hexec] at h
    cases h
    exact .inr (.inr ⟨rfl, honly.envelopesOnly⟩)
  | wEoct a b =>
    cases h
    obtain ⟨_, _, hA, -⟩ := setEnvOctave_spec .A a s
    obtain ⟨_, _, hB, -⟩ := setEnvOctave_spec .B b (setEnvOctave .A a s)
    exact .inl (by rw [hB, hA])
  | _ =>
    cases h
    exact .inl rfl

/-- Settles O24: a write reaches the registers and the synthesis state, of which it leaves all but the accumulators at
addresses 6 to 8 and all but the envelopes at address 28. -/
theorem registerWritesReachOnlyTheirOwnState : Obligations.RegisterWritesReachOnlyTheirOwnState := by
  intro i s t h
  obtain ⟨u, hexec, honly⟩ := exec_next i s
  rw [h] at hexec
  cases hexec
  refine ⟨honly, ?_⟩
  obtain hsynth | ⟨haddr, hsynth⟩ | ⟨haddr, hsynth⟩ := exec_synth h
  · rw [hsynth]
    exact ⟨rfl, rfl, rfl, fun _ => ⟨rfl, rfl⟩, fun _ => ⟨rfl, rfl, rfl, rfl⟩⟩
  · rw [AccumulatorsOnly] at hsynth
    rw [hsynth]
    exact ⟨rfl, rfl, rfl, fun hne => by omega, fun _ => ⟨rfl, rfl, rfl, rfl⟩⟩
  · rw [EnvelopesOnly] at hsynth
    rw [hsynth]
    exact ⟨rfl, rfl, rfl, fun _ => ⟨rfl, rfl⟩, fun hne => absurd haddr hne⟩

/-! ### Writes whose effect is already there change nothing -/

theorem writeToneNibble_eq_self {i : Chan} {o : BitVec 3} {rst : Bool} {s t : State}
    (h : ToneNibbleApplied i o rst s t) : writeToneNibble i o rst t = t := by
  obtain ⟨hoct, -, -, hacc⟩ := h
  rw [writeToneNibble, setToneOctave, if_pos hoct.symm]
  cases rst with
  | false => rfl
  | true =>
    have hzero : t.synth.tonePhaseAcc.get i = 0 := hacc
    rw [strobeTonePhase, if_pos rfl, ← hzero, PerChan.set_get_self]

theorem writeNoiseNibble_eq_self {o : BitVec 3} {rst : Bool} {t : State} (hoct : t.regs.noiseOctave = o)
    (hacc : rst = true → t.synth.noisePhaseAcc = 0) : writeNoiseNibble o rst t = t := by
  rw [writeNoiseNibble, setNoiseOctave, if_pos hoct.symm]
  cases rst with
  | false => rfl
  | true => rw [strobeNoisePhase, if_pos rfl, ← hacc rfl]

theorem setEnvOctave_eq_self {g : Gen} {o : BitVec 4} {t : State} (h : t.regs.envOctave.get g = o) :
    setEnvOctave g o t = t := if_pos h.symm

theorem latchAttackEdges_eq_self {d : Byte} {t : State} (h : t.regs.envShape = d) : latchAttackEdges d t = t := by
  have hslope : (PerGen.ofFn fun g => slopeAfterEdge g t.regs.envShape d (t.synth.envSlope.get g)) =
      t.synth.envSlope := by
    ext g
    simp [slopeAfterEdge, attackEdge, h]
  rw [latchAttackEdges, hslope]

theorem storeShape_eq_self {d : Byte} {t : State} (h : t.regs.envShape = d) : storeShape d t = t := by
  rw [storeShape, ← h]

theorem reloadEnvelope_eq_self {g : Gen} {d : Byte} {s t : State} (honly : ShapeOnly d s t)
    (h : ShapeApplied g d s t) : reloadEnvelope g d t = t := by
  have hbuf : t.regs.envLoadBuffer = s.regs.envLoadBuffer := by rw [honly]
  have hparams : t.params = s.params := by rw [honly]
  obtain ⟨-, e⟩ | ⟨hreset, e⟩ := reloadEnvelope_cases g d t
  · exact e
  · obtain ⟨hstate, hphase, hhalted, hslope⟩ := h.2 hreset
    rw [← hbuf] at hstate hphase
    rw [← hparams] at hslope
    rw [e, ← hstate, ← hphase, ← hhalted, ← hslope]
    simp only [PerGen.set_get_self]

theorem withLowByte_withLowByte (v : Half) (d : Byte) : withLowByte (withLowByte v d) d = withLowByte v d := by
  apply BitVec.eq_of_toNat_eq
  simp only [withLowByte_toNat]
  omega

theorem withHighByte_withHighByte (v : Half) (d : Byte) : withHighByte (withHighByte v d) d = withHighByte v d := by
  apply BitVec.eq_of_toNat_eq
  simp only [withHighByte_toNat]
  omega

/-- Settles O25: octave nibbles, strobes, reloads and edges find their effect already there, and every other write
stores the value that is there. -/
theorem repeatedWriteIsIdempotent : Obligations.RepeatedWriteIsIdempotent := by
  intro i s t h
  cases i with
  | wOct01 o r p q =>
    cases h
    obtain ⟨h0, h1, -⟩ := writeToneNibble_writeToneNibble (i := .c0) (k := .c1) nofun o p r q s
    simp only [exec, execOct01]
    rw [writeToneNibble_eq_self h0, writeToneNibble_eq_self h1]
  | wOct23 o r p q =>
    cases h
    obtain ⟨h2, h3, -⟩ := writeToneNibble_writeToneNibble (i := .c2) (k := .c3) nofun o p r q s
    simp only [exec, execOct23]
    rw [writeToneNibble_eq_self h2, writeToneNibble_eq_self h3]
  | wOct4n o r p q =>
    obtain ⟨u, hexec, htone, -, hoct, -, -, hacc, -⟩ := octaveFourAndNoiseWrite o p r q s
    rw [hexec] at h
    cases h
    have hzero (hq : q = true) : t.synth.noisePhaseAcc = 0 := by rw [hacc, if_pos hq]
    simp only [exec, execOct4n]
    rw [writeToneNibble_eq_self htone, writeNoiseNibble_eq_self hoct hzero]
  | wEoct a b =>
    obtain ⟨u, hexec, hA, hB, -⟩ := envelopeOctaveWrite a b s
    rw [hexec] at h
    cases h
    simp only [exec, execEoct]
    rw [setEnvOctave_eq_self hA, setEnvOctave_eq_self hB]
  | wEshape d =>
    obtain ⟨u, hexec, honly, happlied⟩ := exec_wEshape d s
    rw [hexec] at h
    cases h
    have hshape : t.regs.envShape = d := by rw [honly]
    simp only [exec, execEshape]
    rw [latchAttackEdges_eq_self hshape, storeShape_eq_self hshape, reloadEnvelope_eq_self honly (happlied .A),
      reloadEnvelope_eq_self honly (happlied .B)]
  | wNtapl d =>
    cases h
    exact congrArg (fun v => Host.Outcome.next (setNoiseTap v s)) (withLowByte_withLowByte ..)
  | wNtaph d =>
    cases h
    exact congrArg (fun v => Host.Outcome.next (setNoiseTap v s)) (withHighByte_withHighByte ..)
  | wEldl d =>
    cases h
    exact congrArg (fun v => Host.Outcome.next (setEnvLoadBuffer v s)) (withLowByte_withLowByte ..)
  | wEldh d =>
    cases h
    exact congrArg (fun v => Host.Outcome.next (setEnvLoadBuffer v s)) (withHighByte_withHighByte ..)
  | _ =>
    cases h
    rfl

end Sys2Proof.Machine
end

section
/-! PROOFS. The noise and envelope steps of the update cycle (R214 to R216, R230 to R239). -/

namespace Sys2Proof.Machine

/-! ### Noise -/

/-- Only the noise step of an update cycle reaches the noise accumulator, the LFSR and the mask (R214). -/
theorem updateCycle_noise (s : State) :
    (updateCycle s).synth.noisePhaseAcc = s.synth.noisePhaseAcc + s.regs.noiseShiftedIncrement ∧
    (updateCycle s).synth.noiseLFSR = (noiseStep (toneStep s)).synth.noiseLFSR ∧
    (updateCycle s).synth.noiseMask = (noiseStep (toneStep s)).synth.noiseMask := by
  simp [updateCycle_synth]

/-- R215: on feedback bit 1 the register is halved. -/
theorem lfsrNext_of_odd {lfsr : Half} (h : lfsr.getLsbD 0 = true) (tap : Half) :
    (lfsrNext lfsr tap).toNat = lfsr.toNat / 2 := by
  rw [lfsrNext, if_pos h, BitVec.toNat_ushiftRight]
  rfl

/-- R215: on feedback bit 0 the halved register takes the tap. -/
theorem lfsrNext_of_even {lfsr : Half} (h : lfsr.getLsbD 0 = false) (tap : Half) :
    (lfsrNext lfsr tap).toNat = (lfsr.toNat / 2) ^^^ tap.toNat := by
  rw [lfsrNext, if_neg (by rw [h]; decide), BitVec.toNat_xor, BitVec.toNat_ushiftRight]
  rfl

theorem getLsbD_zero_eq (v : Half) : v.getLsbD 0 = decide (v.toNat % 2 = 1) := by
  rw [BitVec.getLsbD, Nat.testBit_zero]

/-- Settles O27: the noise step's two cases are told apart by the carry out of bit 15. -/
theorem noiseAdvancesExactlyOnCarry : Obligations.NoiseAdvancesExactlyOnCarry := by
  intro s
  obtain ⟨hacc, hlfsr, hmask⟩ := updateCycle_noise s
  have hcarry := noiseWrapped_iff s.synth.noisePhaseAcc s.regs.noiseShiftedIncrement
  rw [hacc, hlfsr, hmask]
  refine ⟨BitVec.toNat_add .., ?_⟩
  obtain ⟨hwrap, hstep⟩ | ⟨hwrap, hstep⟩ := noiseStep_cases (toneStep s)
  · rw [toneStep_noisePhaseAcc, toneStep_regs] at hwrap
    rw [hwrap] at hcarry
    exact ⟨fun h => absurd (hcarry.2 h) nofun, fun _ => by rw [hstep]; exact ⟨rfl, rfl⟩⟩
  · rw [toneStep_noisePhaseAcc, toneStep_regs] at hwrap
    refine ⟨fun _ => ⟨fun hodd => ?odd, fun heven => ?even⟩, fun h => absurd (hcarry.1 hwrap) (by omega)⟩
    case odd =>
      have hbit : s.synth.noiseLFSR.getLsbD 0 = true := by rw [getLsbD_zero_eq, hodd]; rfl
      rw [hstep]
      exact ⟨lfsrNext_of_odd hbit _, congrArg noiseMaskOf hbit⟩
    case even =>
      have hbit : s.synth.noiseLFSR.getLsbD 0 = false := by rw [getLsbD_zero_eq, heven]; rfl
      rw [hstep]
      exact ⟨lfsrNext_of_even hbit _, congrArg noiseMaskOf hbit⟩

/-! ### Envelopes: each generator on its own -/

theorem EnvSame.trans {g : Gen} {s t u : State} (hst : EnvSame g s t) (htu : EnvSame g t u) : EnvSame g s u := by
  obtain ⟨hphase, hstate, hvolume, hslope, hhalted⟩ := htu
  unfold EnvSame
  rwa [hphase, hstate, hvolume, hslope, hhalted]

theorem EnvSame.agree {g : Gen} {s t : State} (h : EnvSame g s t) (hregs : t.regs = s.regs) : EnvAgree g s t := by
  obtain ⟨hphase, hstate, hvolume, hslope, hhalted⟩ := h
  exact ⟨by rw [hregs], by rw [hregs], by rw [hregs], hphase, hstate, hvolume, hslope, hhalted⟩

theorem EnvSame.envCounter_eq {g : Gen} {s t : State} (h : EnvSame g s t) : envCounter g t = envCounter g s := by
  obtain ⟨hphase, hstate, -⟩ := h
  rw [envCounter, hphase, hstate, envCounter]

theorem noiseStep_toneStep_envSame (g : Gen) (s : State) : EnvSame g s (noiseStep (toneStep s)) := by
  simp [EnvSame]

/-- Settles O28: generator A is updated from what the tone and noise steps left of it and B's update leaves it; B is
updated from what all three left of it. -/
theorem envelopesUpdateIndependently : Obligations.EnvelopesUpdateIndependently := by
  intro g s
  have hbefore := noiseStep_toneStep_envSame g s
  change EnvSame g _ (envUpdate .B (envUpdate .A (noiseStep (toneStep s))))
  cases g with
  | A => exact (hbefore.agree (by simp)).update.trans (envUpdate_other (g := .B) (k := .A) nofun _)
  | B => exact ((hbefore.trans (envUpdate_other (g := .A) (k := .B) nofun _)).agree (by simp)).update

theorem updateCycle_envSame (g : Gen) (s : State) : EnvSame g (envUpdate g s) (updateCycle s) :=
  envelopesUpdateIndependently g s

/-- Settles O29: the update of a halted generator leaves the state. -/
theorem haltedEnvelopeStays : Obligations.HaltedEnvelopeStays := by
  intro g s hhalted
  obtain ⟨-, h⟩ | ⟨hlive, -⟩ := envUpdate_cases g s
  · simpa [h] using updateCycle_envSame g s
  · rw [hhalted] at hlive
    cases hlive

/-! ### Envelopes: the counter -/

theorem envCounter_lt (g : Gen) (s : State) : envCounter g s < 2 ^ 24 := by
  unfold envCounter
  omega

/-- A carry reaches the state exactly when phase and step pass 16 bits (R232). -/
theorem envCarry_eq_zero_iff {g : Gen} {s : State} (hle : (s.regs.envShiftedIncrement.get g).toNat ≤ 0xFF00) :
    envCarry g s = 0 ↔ (s.synth.envPhaseAcc.get g).toNat + envAmount g s < 65536 := by
  obtain ⟨-, hcarry, -⟩ := envScratch_toNat g s hle
  rw [← BitVec.toNat_inj, hcarry]
  simp

theorem envBoundary_iff {g : Gen} {s : State} (hle : (s.regs.envShiftedIncrement.get g).toNat ≤ 0xFF00) :
    envBoundary g s = true ↔ 2 ^ 24 ≤ envCounter g s + envAmount g s := by
  obtain ⟨-, hcarry, -⟩ := envScratch_toNat g s hle
  rw [envBoundary, envNextState, envOverflow_iff, hcarry, envCounter]
  omega

theorem envBoundary_eq_false {g : Gen} {s : State} (hle : (s.regs.envShiftedIncrement.get g).toNat ≤ 0xFF00)
    (h : envCounter g s + envAmount g s < 2 ^ 24) : envBoundary g s = false := by
  rw [Bool.eq_false_iff, ne_eq, envBoundary_iff hle]
  omega

/-- The new values of a generator that is not halted (R237). -/
theorem envUpdate_live {g : Gen} {s : State} (hlive : s.synth.envHalted.get g = false) :
    (envUpdate g s).synth.envPhaseAcc.get g = envNextPhase g s ∧
    (envUpdate g s).synth.envState.get g = envNextState g s ∧
    (envUpdate g s).synth.envSmpVolume.get g = envNextVolume g s ∧
    (envUpdate g s).synth.envSlope.get g = envNextSlope g s ∧
    (envUpdate g s).synth.envHalted.get g = envHolds g s := by
  obtain ⟨hhalted, -⟩ | ⟨-, h⟩ := envUpdate_cases g s
  · rw [hlive] at hhalted
    cases hhalted
  · simp [h]

/-- The counter of a generator that is not halted advances by the step modulo 2^24. -/
theorem envCounter_envUpdate {g : Gen} {s : State} (hle : (s.regs.envShiftedIncrement.get g).toNat ≤ 0xFF00)
    (hlive : s.synth.envHalted.get g = false) :
    envCounter g (envUpdate g s) = (envCounter g s + envAmount g s) % 2 ^ 24 := by
  obtain ⟨hphase, hstate, -⟩ := envUpdate_live hlive
  obtain ⟨-, hcarry, hnext⟩ := envScratch_toNat g s hle
  rw [envCounter, hphase, hstate, hnext, envNextState, BitVec.toNat_add, hcarry, envCounter]
  omega

theorem envCounter_updateCycle {g : Gen} {s : State} (hle : (s.regs.envShiftedIncrement.get g).toNat ≤ 0xFF00)
    (hlive : s.synth.envHalted.get g = false) :
    envCounter g (updateCycle s) = (envCounter g s + envAmount g s) % 2 ^ 24 :=
  (updateCycle_envSame g s).envCounter_eq.trans (envCounter_envUpdate hle hlive)

/-- Settles O30: the invariant bounds the cached step by 0xFF00, so the widened sum loses nothing. -/
theorem envelopeIsA24BitCounter : Obligations.EnvelopeIsA24BitCounter := by
  intro g s hinv
  have hle := hinv.envStep_le g
  obtain ⟨hstep, hamount⟩ := envStep_toNat g s hle
  obtain ⟨hscratch, -⟩ := envScratch_toNat g s hle
  have hsum : (envScratch g s).toNat < 2 ^ 24 := by
    rw [hscratch]
    omega
  exact ⟨hstep, hamount, hscratch, hsum, envBoundary_iff hle, envCounter_envUpdate hle⟩

/-- The cached shift takes the low three octave bits and the update the highest, which together are the octave. -/
theorem two_pow_octave (oct : BitVec 4) :
    2 ^ (1 + oct.toNat % 8) * 2 ^ (if oct.getLsbD 3 then 8 else 0) = 2 ^ (1 + oct.toNat) := by
  revert oct
  decide

theorem Inv.envAmount_eq {s : State} (h : Inv s) (g : Gen) :
    envAmount g s = (s.regs.envIncrement.get g).toNat * 2 ^ (1 + (s.regs.envOctave.get g).toNat) := by
  rw [envAmount, h.envSteps g, Nat.mul_assoc, two_pow_octave]

/-- Settles O31: the amount of the counter's advance, with its two shifts put together. -/
theorem envelopeAmountSpansSixteenOctaves : Obligations.EnvelopeAmountSpansSixteenOctaves := by
  intro g s hinv
  have hle := hinv.envStep_le g
  obtain ⟨hstep, -⟩ := envStep_toNat g s hle
  rw [hstep, ← hinv.envAmount_eq g]
  exact ⟨rfl, rfl, envCounter_updateCycle hle⟩

/-! ### Envelopes: the output -/

/-- R99: a generator's hold bit is bit 0 of its nibble, and its alternate bit is bit 1. -/
theorem holdBit_eq (g : Gen) (shape : Byte) : holdBit g shape = shape.getLsbD (genNibble g) := by
  cases g <;> rfl

theorem altBit_eq (g : Gen) (shape : Byte) : altBit g shape = shape.getLsbD (genNibble g + 1) := by
  cases g <;> rfl

/-- R236: a loaded value is complemented if the new slope is clear. -/
theorem envNextVolume_toNat {g : Gen} {s : State} (hcarry : envCarry g s ≠ 0) :
    (envNextVolume g s).toNat =
      if envNextSlope g s then (envLoaded g s).toNat else 255 - (envLoaded g s).toNat := by
  rw [envNextVolume, if_neg hcarry]
  cases envNextSlope g s with
  | true => rfl
  | false => exact BitVec.toNat_not

theorem envNextSlope_of_no_boundary {g : Gen} {s : State} (h : envBoundary g s = false) :
    envNextSlope g s = s.synth.envSlope.get g := by
  simp [envNextSlope, h]

theorem envNextSlope_of_boundary {g : Gen} {s : State} (h : envBoundary g s = true) :
    envNextSlope g s = xor (s.synth.envSlope.get g) (altBit g s.regs.envShape) := by
  rw [envNextSlope, h, Bool.true_and]
  cases altBit g s.regs.envShape <;> simp

theorem envHolds_of_no_boundary {g : Gen} {s : State} (h : envBoundary g s = false) : envHolds g s = false := by
  rw [envHolds, h, Bool.false_and]

theorem envHolds_of_boundary {g : Gen} {s : State} (h : envBoundary g s = true) :
    envHolds g s = holdBit g s.regs.envShape := by
  rw [envHolds, h, Bool.true_and]

theorem envLoaded_of_no_boundary {g : Gen} {s : State} (h : envBoundary g s = false) :
    envLoaded g s = envNextState g s := by
  rw [envLoaded, envHolds_of_no_boundary h]
  rfl

theorem envLoaded_of_boundary {g : Gen} {s : State} (h : envBoundary g s = true) :
    (envLoaded g s).toNat = if holdBit g s.regs.envShape then 255 else (envNextState g s).toNat := by
  rw [envLoaded, envHolds_of_boundary h]
  cases holdBit g s.regs.envShape <;> rfl

/-- Settles O32: the new values by the carry and by the boundary, which are told apart by the two sums. -/
theorem envelopeOutputRule : Obligations.EnvelopeOutputRule := by
  intro g s hinv hlive
  have hle := hinv.envStep_le g
  obtain ⟨-, hstate, hvolume, hslope, hhalted⟩ := envUpdate_live hlive
  rw [hstate, hvolume, hslope, hhalted, ← holdBit_eq, ← altBit_eq]
  refine ⟨fun hsum => ?none, fun hsum => ⟨fun hfull => ?boundary, fun hfull => ?carry⟩⟩
  case none =>
    have hcounter : envCounter g s + envAmount g s < 2 ^ 24 := by
      rw [envCounter]
      omega
    have hno := envBoundary_eq_false hle hcounter
    exact ⟨if_pos ((envCarry_eq_zero_iff hle).2 hsum), envNextSlope_of_no_boundary hno, envHolds_of_no_boundary hno⟩
  case boundary =>
    have hcarry : envCarry g s ≠ 0 := by
      rw [ne_eq, envCarry_eq_zero_iff hle]
      omega
    have hyes := (envBoundary_iff hle).2 hfull
    refine ⟨envNextSlope_of_boundary hyes, envHolds_of_boundary hyes, ?_⟩
    rw [envNextVolume_toNat hcarry, envLoaded_of_boundary hyes]
  case carry =>
    have hcarry : envCarry g s ≠ 0 := by
      rw [ne_eq, envCarry_eq_zero_iff hle]
      omega
    have hno := envBoundary_eq_false hle hfull
    refine ⟨envNextSlope_of_no_boundary hno, envHolds_of_no_boundary hno, ?_⟩
    rw [envNextVolume_toNat hcarry, envLoaded_of_no_boundary hno, envNextSlope_of_no_boundary hno]

end Sys2Proof.Machine
end

section
/-! PROOFS. The rising hold shape over any number of update cycles (R238, R239). -/

namespace Sys2Proof.Machine

/-- Generator `g` after `n` update cycles of a rising hold shape, from counter `c` with step `a`: short of 2^24 it
rises and is not halted, from 2^24 on it is halted at its maximum. -/
def RisesAndHolds (g : Gen) (c a n : Nat) (s : State) : Prop :=
  (c + n * a < 2 ^ 24 ∧ s.synth.envHalted.get g = false ∧ s.synth.envSlope.get g = true ∧
    envCounter g s = c + n * a ∧ (s.synth.envSmpVolume.get g).toNat ≤ (s.synth.envState.get g).toNat) ∨
  (2 ^ 24 ≤ c + n * a ∧ s.synth.envHalted.get g = true ∧ s.synth.envSmpVolume.get g = 0xFF)

/-- The hold shape without alternate, with the bound the invariant gives the step: all a ramp needs of the registers. -/
structure HoldShape (g : Gen) (s : State) : Prop where
  hold : s.regs.envShape.getLsbD (genNibble g) = true
  alt : s.regs.envShape.getLsbD (genNibble g + 1) = false
  stepLe : (s.regs.envShiftedIncrement.get g).toNat ≤ 0xFF00

theorem HoldShape.updateCycle {g : Gen} {s : State} (h : HoldShape g s) : HoldShape g (updateCycle s) := by
  obtain ⟨hhold, halt, hle⟩ := h
  constructor <;> rwa [updateCycle_regs]

theorem updateCycle_envAmount (g : Gen) (s : State) : envAmount g (updateCycle s) = envAmount g s := by
  rw [envAmount, updateCycle_regs, envAmount]

/-- The state is the counter's high byte. -/
theorem envState_toNat (g : Gen) (s : State) : (s.synth.envState.get g).toNat = envCounter g s / 2 ^ 16 := by
  unfold envCounter
  omega

/-- The output a rising generator loads short of 2^24: its new state, or without a carry its old output. -/
theorem envNextVolume_le_of_rising {g : Gen} {s : State} (hle : (s.regs.envShiftedIncrement.get g).toNat ≤ 0xFF00)
    (hlive : s.synth.envHalted.get g = false) (hslope : s.synth.envSlope.get g = true)
    (hfull : envCounter g s + envAmount g s < 2 ^ 24)
    (hvolume : (s.synth.envSmpVolume.get g).toNat ≤ (s.synth.envState.get g).toNat) :
    (s.synth.envSmpVolume.get g).toNat ≤ (envNextVolume g s).toNat ∧
      (envNextVolume g s).toNat ≤ (envNextState g s).toNat := by
  have hno := envBoundary_eq_false hle hfull
  have hstate : (envNextState g s).toNat = (envCounter g s + envAmount g s) / 2 ^ 16 := by
    obtain ⟨-, hstate, -⟩ := envUpdate_live hlive
    rw [← hstate, envState_toNat, envCounter_envUpdate hle hlive, Nat.mod_eq_of_lt hfull]
  rw [envState_toNat] at hvolume
  by_cases hcarry : envCarry g s = 0
  · rw [envNextVolume, if_pos hcarry]
    omega
  · rw [envNextVolume_toNat hcarry, envNextSlope_of_no_boundary hno, if_pos hslope, envLoaded_of_no_boundary hno]
    omega

/-- A rising hold shape that reaches 2^24 loads its maximum. -/
theorem envNextVolume_of_full {g : Gen} {s : State} (hshape : HoldShape g s) (hslope : s.synth.envSlope.get g = true)
    (hfull : 2 ^ 24 ≤ envCounter g s + envAmount g s) : envNextVolume g s = 0xFF := by
  obtain ⟨hhold, halt, hle⟩ := hshape
  have hyes := (envBoundary_iff hle).2 hfull
  have hcarry : envCarry g s ≠ 0 := by
    rw [ne_eq, envCarry_eq_zero_iff hle]
    unfold envCounter at hfull
    omega
  apply BitVec.eq_of_toNat_eq
  rw [envNextVolume_toNat hcarry, envNextSlope_of_boundary hyes, altBit_eq, halt, hslope, Bool.xor_false, if_pos rfl,
    envLoaded_of_boundary hyes, holdBit_eq, if_pos hhold]
  rfl

/-- One update cycle: a halted generator stays, one short of 2^24 goes on rising, and one that reaches it is halted at
its maximum; the output never descends. -/
theorem RisesAndHolds.updateCycle {g : Gen} {c n : Nat} {s : State} (hshape : HoldShape g s)
    (h : RisesAndHolds g c (envAmount g s) n s) :
    RisesAndHolds g c (envAmount g s) (n + 1) (updateCycle s) ∧
      (s.synth.envSmpVolume.get g).toNat ≤ ((updateCycle s).synth.envSmpVolume.get g).toNat := by
  have hmul : c + (n + 1) * envAmount g s = c + n * envAmount g s + envAmount g s := by rw [Nat.succ_mul]; omega
  unfold RisesAndHolds
  rw [hmul]
  obtain ⟨hlt, hlive, hslope, hcounter, hvolume⟩ | ⟨hge, hhalted, hvolume⟩ := h
  · obtain ⟨-, hstate', hvolume', hslope', hhalted'⟩ := updateCycle_envSame g s
    obtain ⟨-, hstate, hnext, hnextSlope, hholds⟩ := envUpdate_live hlive
    rw [hstate', hvolume', hslope', hhalted', hstate, hnext, hnextSlope, hholds,
      envCounter_updateCycle hshape.stepLe hlive, ← hcounter]
    by_cases hfull : envCounter g s + envAmount g s < 2 ^ 24
    · have hno := envBoundary_eq_false hshape.stepLe hfull
      obtain ⟨hmono, hbound⟩ := envNextVolume_le_of_rising hshape.stepLe hlive hslope hfull hvolume
      exact ⟨.inl ⟨hfull, envHolds_of_no_boundary hno, (envNextSlope_of_no_boundary hno).trans hslope,
        Nat.mod_eq_of_lt hfull, hbound⟩, hmono⟩
    · have hge := Nat.le_of_not_lt hfull
      have hyes := (envBoundary_iff hshape.stepLe).2 hge
      rw [envNextVolume_of_full hshape hslope hge, envHolds_of_boundary hyes, holdBit_eq]
      exact ⟨.inr ⟨hge, hshape.hold, rfl⟩, Nat.le_of_lt_succ (s.synth.envSmpVolume.get g).isLt⟩
  · obtain ⟨-, -, hvolume', -, hhalted'⟩ := haltedEnvelopeStays g s hhalted
    rw [hvolume', hhalted']
    exact ⟨.inr ⟨by omega, hhalted, hvolume⟩, Nat.le_refl _⟩

/-- The ramp's registers, its step and its shape of rising and holding, after any number of update cycles. -/
theorem iterate_updateCycle_risesAndHolds {g : Gen} {s : State} (hshape : HoldShape g s)
    (h : RisesAndHolds g (envCounter g s) (envAmount g s) 0 s) (n : Nat) :
    HoldShape g (updateCycle^[n] s) ∧ envAmount g (updateCycle^[n] s) = envAmount g s ∧
      RisesAndHolds g (envCounter g s) (envAmount g s) n (updateCycle^[n] s) := by
  induction n with
  | zero => exact ⟨hshape, rfl, h⟩
  | succ n ih =>
    obtain ⟨hshape', hamount, hrises⟩ := ih
    rw [Function.iterate_succ_apply']
    refine ⟨hshape'.updateCycle, by rw [updateCycle_envAmount, hamount], ?_⟩
    rw [← hamount] at hrises ⊢
    exact (hrises.updateCycle hshape').1

/-- Settles O33: the ramp rises and holds over `n` cycles, and one cycle more does not lower its output. -/
theorem holdShapeRisesAndHolds : Obligations.HoldShapeRisesAndHolds := by
  intro g s hinv hlive hslope hhold halt hvolume n
  have hzero : envCounter g s + 0 * envAmount g s = envCounter g s := by rw [Nat.zero_mul, Nat.add_zero]
  have hstart : RisesAndHolds g (envCounter g s) (envAmount g s) 0 s :=
    .inl ⟨hzero.symm ▸ envCounter_lt g s, hlive, hslope, hzero.symm, hvolume⟩
  obtain ⟨hshape, hamount, hrises⟩ :=
    iterate_updateCycle_risesAndHolds ⟨hhold, halt, hinv.envStep_le g⟩ hstart n
  refine ⟨?_, fun hge => ?_, fun hlt => ?_⟩
  · rw [Function.iterate_succ_apply']
    rw [← hamount] at hrises
    exact (hrises.updateCycle hshape).2
  · obtain ⟨hlt, -⟩ | ⟨-, hhalted, hvolume'⟩ := hrises
    · omega
    · exact ⟨hhalted, hvolume'⟩
  · obtain ⟨-, hlive', -, hcounter, -⟩ | ⟨hge, -⟩ := hrises
    · exact ⟨hlive', hcounter⟩
    · omega

end Sys2Proof.Machine
end

section
/-! PROOFS. The mixer of the update cycle, the ring slot it fills, and what the update cycle leaves (R250 to R258,
R282). -/

namespace Sys2Proof.Machine

/-! ### Channel outputs -/

/-- The mixer reads only registers, parameters and synthesis state, which the update cycle leaves as the mixer finds
them. -/
theorem updateCycle_channelOutput (s : State) (i : Chan) : (updateCycle s).out.channelOutput.get i =
    chanSample ((toneBits (toneStep s)).get i) i (updateCycle s) := by
  rw [updateCycle, pushDelay_channelOutput, mixChannels_channelOutput]
  rfl

/-- R98: the selected envelope, by config bit 5. -/
theorem get_envSel {α : Type} (x : PerGen α) (c : Byte) : x.get (envSel c) = if c.getLsbD 5 then x.B else x.A := by
  unfold envSel cfgLayout
  cases c.getLsbD 5 <;> rfl

theorem panMult_of_not_listed {p : Params} (h : p.panMultListed = []) (c : Byte) : panMult p c = c.toNat % 4 + 1 := by
  simp [panMult, h, panMultDefault, pan0, cfgLayout, BitVec.extractLsb'_toNat]

/-- R252, R253: the level of a channel as a number. -/
theorem chanLevel_toNat (i : Chan) (s : State) : (chanLevel i s).toNat =
    if (s.regs.channelConfig.get i).getLsbD 6 then
      (if (s.regs.staticVolume.get i).getLsbD 7 then
        (s.synth.envSmpVolume.get (envSel (s.regs.channelConfig.get i))).toNat
        else (s.synth.envSmpVolume.get (envSel (s.regs.channelConfig.get i))).toNat / 2)
    else (s.regs.staticVolume.get i).toNat := by
  have hshift (e : Byte) : (e >>> 1).toNat = e.toNat / 2 := BitVec.toNat_ushiftRight e 1
  unfold chanLevel envLevel envEn fullEnvelope cfgLayout
  split
  · split
    · rfl
    · exact hshift _
  · rfl

/-- Settles O34: the mixer's formula, read in the state the update cycle leaves. -/
theorem mixerFollowsTheSameUpdate : Obligations.MixerFollowsTheSameUpdate := by
  intro s i t c e level active
  refine ⟨?_, fun h => panMult_of_not_listed h c⟩
  have hlevel : (chanLevel i t).toNat = level := by
    rw [chanLevel_toNat, get_envSel, updateCycle_regs]
  rw [updateCycle_channelOutput, chanSample, hlevel, chanActive, updateCycle_regs, updateCycle_params]
  rfl

/-! ### The ring -/

/-- The sample mixed by an update cycle, read in the state it leaves. -/
theorem updateCycle_delayRing_eq (s : State) :
    (updateCycle s).out.delayRing = s.out.delayRing.set (period s + 1) (mixedSample (updateCycle s)) :=
  updateCycle_delayRing s

/-- An update cycle leaves the slot of the current period. -/
theorem updateCycle_delayRing_get (s : State) {n : Nat} (h : n % 2 = period s % 2) :
    (updateCycle s).out.delayRing.get n = s.out.delayRing.get n := by
  rw [updateCycle_delayRing_eq, Ring.get_set, if_neg (by omega)]

theorem mixSum_eq (s : State) :
    mixSum s = audible s .c0 + audible s .c1 + audible s .c2 + audible s .c3 + audible s .c4 := by
  simp [mixSum, Chan.all, Nat.add_assoc]

/-- Settles O35: the update cycle writes the next period's slot, which is the other one, with the mixed sample. -/
theorem mixedSampleGoesToTheNextSlot : Obligations.MixedSampleGoesToTheNextSlot := by
  intro s t term sum
  constructor
  · have haudible (i : Chan) : audible t i = term i := by rw [audible, updateCycle_settings]
    have hsum : mixSum t = sum := by simp only [mixSum_eq, haudible]; rfl
    rw [updateCycle_delayRing_eq, period_eq, Ring.get_set, if_pos rfl, mixedSample, Nat.shiftRight_eq_div_pow, hsum,
      mixShift, updateCycle_params, updateCycle_settings]
  · exact updateCycle_delayRing_get s (by rw [period_eq])

/-! ### The frame -/

/-- Settles O36: every other field of the state after an update cycle is that of the state before it. -/
theorem updateCycleFrame : Obligations.UpdateCycleFrame := by
  intro s
  dsimp only
  rw [← updateCycle_clockCycle s, ← updateCycle_regs s, ← updateCycle_currentOutput s, ← updateCycle_writeQueue s,
    ← updateCycle_tickAccumulator s, ← updateCycle_settings s, ← updateCycle_recorded s, ← updateCycle_params s]

end Sys2Proof.Machine
end

section
/-! PROOFS. What a step and a run of ticks leave of the state, and the outputs they make (R280, R284). -/

namespace Sys2Proof.Machine

/-! ### One step -/

/-- A step finishes the tick from a state that differs from the old one in no more than a drain reaches. -/
theorem step_next_drained {s t : State} (h : step s = .next t) :
    ∃ u, RegSynthOnly { s with writeQueue := s.writeQueue.tail } u ∧ t = finishTick u := by
  obtain ⟨u, hdrain, ht⟩ := step_next h
  exact ⟨u, drain_next hdrain, ht⟩

/-- What every step does to the clock and the queue, and what it leaves. -/
theorem step_frame {s t : State} (h : step s = .next t) :
    t.clockCycle = s.clockCycle + 1 ∧ t.writeQueue = s.writeQueue.tail ∧ t.settings = s.settings ∧
      t.params = s.params ∧ t.tickAccumulator = s.tickAccumulator := by
  obtain ⟨u, honly, rfl⟩ := step_next_drained h
  rw [honly]
  simp

theorem step_clockCycle_toNat {s t : State} (h : step s = .next t) :
    t.clockCycle.toNat = (s.clockCycle.toNat + 1) % 2 ^ 32 := by
  obtain ⟨hclock, -⟩ := step_frame h
  rw [hclock, BitVec.toNat_add]
  rfl

/-- Off the boundary a step leaves the ring. -/
theorem step_delayRing_of_not_due {s t : State} (h : step s = .next t) (hoff : s.clockCycle.toNat % 512 ≠ 0) :
    t.out.delayRing = s.out.delayRing := by
  obtain ⟨u, honly, rfl⟩ := step_next_drained h
  have hu : u.clockCycle.toNat % 512 ≠ 0 := by rwa [honly]
  rw [finishTick_delayRing, updateIfDue_of_not_due hu, honly]

theorem updateIfDue_delayRing_get (s : State) {n : Nat} (hn : n % 2 = period s % 2) :
    (updateIfDue s).out.delayRing.get n = s.out.delayRing.get n := by
  by_cases hdue : s.clockCycle.toNat % 512 = 0
  · rw [updateIfDue_of_due hdue, updateCycle_delayRing_get s hn]
  · rw [updateIfDue_of_not_due hdue]

/-- Every step leaves the slot of its own period. -/
theorem step_delayRing_get {s t : State} (h : step s = .next t) {n : Nat}
    (hn : s.clockCycle.toNat / 512 % 2 = n % 2) : t.out.delayRing.get n = s.out.delayRing.get n := by
  obtain ⟨u, honly, rfl⟩ := step_next_drained h
  have hu : n % 2 = period u % 2 := by rw [period_eq, honly]; exact hn.symm
  rw [finishTick_delayRing, updateIfDue_delayRing_get u hu, honly]

theorem pwmOutput_congr {s t : State} (hsettings : t.settings = s.settings) (hclock : t.clockCycle = s.clockCycle)
    (hdelayed : delayed t = delayed s) : pwmOutput t = pwmOutput s := by
  rw [pwmOutput, pwmExact, pwmHigh, hsettings, hclock, hdelayed]
  rfl

/-- The output of a step is that of the state before it: neither the drain nor the update reaches the slot of the
current period. -/
theorem step_currentOutput {s t : State} (h : step s = .next t) : t.out.currentOutput = pwmOutput s := by
  obtain ⟨u, honly, rfl⟩ := step_next_drained h
  have hupdate : delayed (updateIfDue u) = delayed u := by
    have hperiod : period (updateIfDue u) = period u := by rw [period_eq, period_eq, updateIfDue_clockCycle]
    rw [delayed, delayed, hperiod, updateIfDue_delayRing_get u rfl]
  rw [finishTick_currentOutput, pwmOutput_congr (updateIfDue_settings u) (updateIfDue_clockCycle u) hupdate, honly]
  rfl

theorem step_recorded {s t : State} (h : step s = .next t) :
    t.recorded = s.recorded ++ if s.settings.quality = .mean then [t.out.currentOutput] else [] := by
  obtain ⟨u, honly, rfl⟩ := step_next_drained h
  have hrecorded : u.recorded = s.recorded := by rw [honly]
  have hsettings : u.settings = s.settings := by rw [honly]
  rw [finishTick_recorded, hrecorded, hsettings]

/-! ### Runs -/

/-- A run of `n + 1` ticks is a run of `n` and one more step. -/
theorem runTicks_succ_next {n : Nat} {s t : State} (h : runTicks (n + 1) s = .next t) :
    ∃ u, runTicks n s = .next u ∧ step u = .next t := by
  obtain ⟨u, hrun, -⟩ := runTicks_writeQueue n s
  obtain ⟨v, hstep, -⟩ := step_writeQueue u
  rw [runTicks_add 1 hrun, runTicks_succ_of_step 0 hstep] at h
  cases h
  exact ⟨u, hrun, hstep⟩

theorem runTicks_zero_next {s t : State} (h : runTicks 0 s = .next t) : t = s := by
  cases h
  rfl

/-- What every run does to the clock, and what it leaves. -/
theorem runTicks_frame {n : Nat} {s t : State} (h : runTicks n s = .next t) :
    t.clockCycle = s.clockCycle + BitVec.ofNat 32 n ∧ t.settings = s.settings ∧ t.params = s.params ∧
      t.tickAccumulator = s.tickAccumulator := by
  induction n generalizing t with
  | zero =>
    cases h
    simp
  | succ n ih =>
    obtain ⟨u, hrun, hstep⟩ := runTicks_succ_next h
    obtain ⟨hclock, hsettings, hparams, hacc⟩ := ih hrun
    obtain ⟨hclock', -, hsettings', hparams', hacc'⟩ := step_frame hstep
    refine ⟨?_, hsettings'.trans hsettings, hparams'.trans hparams, hacc'.trans hacc⟩
    rw [hclock', hclock, BitVec.ofNat_add, BitVec.add_assoc]
    rfl

theorem runTicks_clockCycle_toNat {n : Nat} {s t : State} (h : runTicks n s = .next t) :
    t.clockCycle.toNat = (s.clockCycle.toNat + n) % 2 ^ 32 := by
  obtain ⟨hclock, -⟩ := runTicks_frame h
  rw [hclock, BitVec.toNat_add, BitVec.toNat_ofNat, Nat.add_mod_mod]

/-- A run that meets no boundary leaves the ring. -/
theorem runTicks_delayRing_of_not_due {n : Nat} {s t : State} (h : runTicks n s = .next t)
    (hoff : ∀ j < n, (s.clockCycle.toNat + j) % 512 ≠ 0) : t.out.delayRing = s.out.delayRing := by
  induction n generalizing t with
  | zero => rw [runTicks_zero_next h]
  | succ n ih =>
    obtain ⟨u, hrun, hstep⟩ := runTicks_succ_next h
    have hclock := runTicks_clockCycle_toNat hrun
    have hn := hoff n (Nat.lt_succ_self n)
    rw [step_delayRing_of_not_due hstep (by omega)]
    exact ih hrun fun j hj => hoff j (Nat.lt_succ_of_lt hj)

/-- A run within the periods of one slot leaves that slot. -/
theorem runTicks_delayRing_get {n m : Nat} {s t : State} (h : runTicks n s = .next t)
    (hslot : ∀ j < n, (s.clockCycle.toNat + j) / 512 % 2 = m % 2) : t.out.delayRing.get m = s.out.delayRing.get m := by
  induction n generalizing t with
  | zero => rw [runTicks_zero_next h]
  | succ n ih =>
    obtain ⟨u, hrun, hstep⟩ := runTicks_succ_next h
    have hclock := runTicks_clockCycle_toNat hrun
    have hn := hslot n (Nat.lt_succ_self n)
    rw [step_delayRing_get hstep (by omega)]
    exact ih hrun fun j hj => hslot j (Nat.lt_succ_of_lt hj)

/-! ### The latency of a mixed sample -/

/-- Settles O37: the slot an update fills is left by the 511 ticks after it, which meet no boundary, and then by the
ticks of the next period, whose own slot it is; each of these makes its output from it. -/
theorem outputLatencyIs512Ticks : Obligations.OutputLatencyIs512Ticks := by
  intro s u k hdue hk hstep sample
  obtain ⟨v, hv, -⟩ := runTicks_writeQueue 511 u
  obtain ⟨x, hx, -⟩ := runTicks_writeQueue k v
  obtain ⟨t, ht, -⟩ := step_writeQueue x
  have hrun : runTicks (513 + k) s = .next t := by
    rw [show 513 + k = 511 + (k + 1) + 1 by omega, runTicks_succ_of_step _ hstep, runTicks_add _ hv,
      runTicks_add 1 hx, runTicks_succ_of_step 0 ht]
    rfl
  have hclockU := step_clockCycle_toNat hstep
  have hclockV := runTicks_clockCycle_toNat hv
  have hclockX := runTicks_clockCycle_toNat hx
  have hringV : v.out.delayRing = u.out.delayRing := runTicks_delayRing_of_not_due hv fun j hj => by omega
  have hslotX : x.out.delayRing.get (s.clockCycle.toNat / 512 + 1) = sample := by
    rw [runTicks_delayRing_get hx fun j hj => by omega, hringV]
  have hslot : x.out.delayRing.get (x.clockCycle.toNat / 512) = sample := by
    rw [← hslotX]
    exact Ring.get_congr _ (by omega)
  have hsettings : x.settings = s.settings := by
    obtain ⟨-, -, hu, -⟩ := step_frame hstep
    obtain ⟨-, hv, -⟩ := runTicks_frame hv
    obtain ⟨-, hx, -⟩ := runTicks_frame hx
    rw [hx, hv, hu]
  have hlow : x.clockCycle.toNat % 256 = k % 256 := by omega
  refine ⟨t, hrun, fun happrox => ?_, fun hexact => ?_⟩
  · rw [step_currentOutput ht, pwmOutput_of_approx (by rwa [hsettings]), hslot]
  · rw [step_currentOutput ht, pwmOutput_of_exact (by rwa [hsettings]), hslot, hlow, hsettings]

/-! ### The duty of the exact output -/

/-- The record of the first `n` ticks of a PWM period: high for the ticks whose low byte is at most the sample. -/
theorem recorded_of_exact_mean {s t : State} {n : Nat} (hlow : s.clockCycle.toNat % 256 = 0)
    (hexact : s.settings.outputType = .exact) (hmean : s.settings.quality = .mean) (hrec : s.recorded = [])
    (hn : n ≤ 256) (hrun : runTicks n s = .next t) :
    t.recorded.sum = (2 ^ s.settings.outputBitdepth - 1) * min n (delayed s + 1) ∧ t.recorded.length = n := by
  induction n generalizing t with
  | zero =>
    rw [runTicks_zero_next hrun, hrec, Nat.zero_min]
    exact ⟨rfl, rfl⟩
  | succ n ih =>
    obtain ⟨u, hrunU, hstep⟩ := runTicks_succ_next hrun
    obtain ⟨hsum, hlen⟩ := ih (by omega) hrunU
    have hclock := runTicks_clockCycle_toNat hrunU
    obtain ⟨-, hsettings, -⟩ := runTicks_frame hrunU
    have hdelayed : u.out.delayRing.get (u.clockCycle.toNat / 512) = delayed s := by
      rw [delayed, period_eq, ← runTicks_delayRing_get hrunU fun j hj => by omega]
      exact Ring.get_congr _ (by omega)
    have hout : t.out.currentOutput = if n > delayed s then 0 else 2 ^ s.settings.outputBitdepth - 1 := by
      rw [step_currentOutput hstep, pwmOutput_of_exact (by rwa [hsettings]), hdelayed, hsettings,
        show u.clockCycle.toNat % 256 = n by omega]
    rw [step_recorded hstep, hsettings, if_pos hmean, List.sum_append, List.sum_singleton, List.length_append, hsum,
      hlen, hout]
    refine ⟨?_, rfl⟩
    by_cases hhigh : n > delayed s
    · rw [if_pos hhigh, Nat.min_eq_right (by omega), Nat.min_eq_right (by omega), Nat.add_zero]
    · rw [if_neg hhigh, Nat.min_eq_left (by omega), Nat.min_eq_left (by omega), Nat.mul_succ]

/-- Settles O38: the record of a whole period. -/
theorem exactPwmDutyIsTheSamplePlusOne : Obligations.ExactPwmDutyIsTheSamplePlusOne :=
  fun _ _ hlow hexact hmean hrec hrun => recorded_of_exact_mean hlow hexact hmean hrec (Nat.le_refl _) hrun

end Sys2Proof.Machine
end

section
/-! PROOFS. The invariant (R55 with the bounds of R37, R43 to R45, R50 and R52): it holds after create and
reset, and every register write, update cycle and step keeps it. -/

namespace Sys2Proof.Machine

/-! ### Create and reset -/

theorem tickRatio_eq (c r : Nat) : tickRatio c r = (c : Rat) / (r : Rat) := by
  rw [tickRatio, Rat.mkRat_eq_div]
  rfl

/-- With the reset values in every register and running element, the invariant is what it says of the queue, the
settings and the parameters. -/
theorem inv_of_reset {s : State} (hregs : s.regs = .reset) (hsynth : s.synth = .reset) (hout : s.out = .reset)
    (hacc : s.tickAccumulator = 0) (hqueue : s.writeQueue.length ≤ s.settings.writeQueueCapacity)
    (hratio : s.settings.ticksPerOutputSample = (s.settings.clockHz : Rat) / (s.settings.sampleRateHz : Rat))
    (hrates : 0 < s.settings.clockHz ∧ 0 < s.settings.sampleRateHz)
    (hquality : s.settings.scratchAvailable = false → s.settings.quality = .nearest)
    (hdepth : 1 ≤ s.settings.outputBitdepth ∧ s.settings.outputBitdepth ≤ 32) (hparams : ParamsSound s.params) :
    Inv s where
  toneSteps i := by rw [hregs]; cases i <;> rfl
  noiseSteps := by rw [hregs]; rfl
  envSteps g := by rw [hregs]; cases g <;> rfl
  noiseMaskLegal := .inl (by rw [hsynth]; rfl)
  channelBounded i := ⟨0, by rw [hout]; cases i <;> exact Nat.zero_le _⟩
  ringBounded := by rw [hout]; exact ⟨Nat.two_pow_pos 32, Nat.two_pow_pos 32⟩
  currentBounded := by rw [hout]; exact Nat.two_pow_pos 32
  queueBounded := hqueue
  accumulatorNonneg := hacc.ge
  ratioExact := hratio
  ratesPositive := hrates
  qualityNeedsScratch := hquality
  bitdepthLegal := hdepth
  paramsSound := hparams

/-- Settles O40: everything that runs has its reset value, and the settings are the arguments. -/
theorem createdInstancesSatisfyTheInvariant : Obligations.CreatedInstancesSatisfyTheInvariant := by
  intro a scratch ha
  have hinv : Inv (State.created a scratch) := inv_of_reset rfl rfl rfl rfl (Nat.zero_le _) (tickRatio_eq ..)
    ⟨ha.clock, ha.rate⟩ (fun _ => rfl) ha.bitdepth ha.params
  exact ⟨hinv, zero_lt_one, rfl⟩

theorem panMultDefault_le (c : Byte) : panMultDefault c ≤ 4 := by
  have := (pan0 c).isLt
  unfold panMultDefault
  omega

/-- R256: the default multiplier is at most 4, and the free scale is within the bound that leaves. -/
theorem resetParams_sound : ParamsSound Config.resetParams := by
  intro c
  have hpan : panMult Config.resetParams c ≤ 4 := panMultDefault_le c
  have hscale : Config.resetParams.mixScale < 842151 := Config.mixScale.isLt
  calc 1275 * panMult Config.resetParams c * Config.resetParams.mixScale
      ≤ 1275 * 4 * 842150 := Nat.mul_le_mul (Nat.mul_le_mul_left _ hpan) (by omega)
    _ < 2 ^ 32 := by norm_num

/-- Settles O39: the state after reset is the one created from sound arguments. -/
theorem resetSatisfiesTheInvariant : Obligations.ResetSatisfiesTheInvariant :=
  createdInstancesSatisfyTheInvariant Config.resetArgs true
    ⟨by decide, by decide, by decide, resetParams_sound⟩

/-! ### Register writes: cached steps -/

/-- The registers' part of the invariant: each cached step is its increment shifted by its octave. -/
structure StepsCached (r : RegFile) : Prop where
  tone : ∀ i, (r.shiftedIncrement.get i).toNat = (r.toneIncrement.get i).toNat * 2 ^ (1 + (r.toneOctave.get i).toNat)
  noise : r.noiseShiftedIncrement.toNat = r.noiseIncrement.toNat * 2 ^ (1 + r.noiseOctave.toNat)
  env : ∀ g, (r.envShiftedIncrement.get g).toNat =
    (r.envIncrement.get g).toNat * 2 ^ (1 + (r.envOctave.get g).toNat % 8)

theorem Inv.stepsCached {s : State} (h : Inv s) : StepsCached s.regs := ⟨h.toneSteps, h.noiseSteps, h.envSteps⟩

theorem setToneIncrement_stepsCached (i : Chan) (d : Byte) {s : State} (h : StepsCached s.regs) :
    StepsCached (setToneIncrement i d s).regs := by
  refine ⟨fun j => ?_, h.noise, h.env⟩
  rw [setToneIncrement_shiftedIncrement, setToneIncrement_toneIncrement, PerChan.get_set, PerChan.get_set]
  split
  case isTrue hj => subst hj; exact pitchShift_toNat ..
  case isFalse => exact h.tone j

theorem setEnvIncrement_stepsCached (g : Gen) (d : Byte) {s : State} (h : StepsCached s.regs) :
    StepsCached (setEnvIncrement g d s).regs := by
  refine ⟨h.tone, h.noise, fun k => ?_⟩
  rw [setEnvIncrement_envShiftedIncrement, setEnvIncrement_envIncrement, PerGen.get_set, PerGen.get_set]
  split
  case isTrue hk => subst hk; exact envShift_toNat ..
  case isFalse => exact h.env k

theorem writeToneNibble_stepsCached (i : Chan) (o : BitVec 3) (rst : Bool) {s : State} (h : StepsCached s.regs) :
    StepsCached (writeToneNibble i o rst s).regs := by
  obtain ⟨oct, steps, accs, heq, hoct, hsame, hnew, -, hothers⟩ := writeToneNibble_spec i o rst s
  rw [heq]
  refine ⟨fun j => ?_, h.noise, h.env⟩
  by_cases hj : j = i
  · subst hj
    by_cases ho : o = s.regs.toneOctave.get j
    · simp only [hoct, hsame ho, h.tone j, ho]
    · simp only [hoct, hnew ho]
  · obtain ⟨hoct', hstep', -⟩ := hothers j hj
    simp only [hoct', hstep', h.tone j]

theorem writeNoiseNibble_stepsCached (o : BitVec 3) (rst : Bool) {s : State} (h : StepsCached s.regs) :
    StepsCached (writeNoiseNibble o rst s).regs := by
  obtain ⟨step, acc, heq, hsame, hnew, -⟩ := writeNoiseNibble_spec o rst s
  rw [heq]
  refine ⟨h.tone, ?_, h.env⟩
  by_cases ho : o = s.regs.noiseOctave
  · simp only [hsame ho, h.noise, ho]
  · exact hnew ho

theorem setEnvOctave_stepsCached (g : Gen) (o : BitVec 4) {s : State} (h : StepsCached s.regs) :
    StepsCached (setEnvOctave g o s).regs := by
  obtain ⟨oct, steps, heq, hoct, hsame, hnew, hother⟩ := setEnvOctave_spec g o s
  rw [heq]
  refine ⟨h.tone, h.noise, fun k => ?_⟩
  by_cases hk : k = g
  · subst hk
    by_cases ho : o = s.regs.envOctave.get k
    · simp only [hoct, hsame ho, h.env k, ho]
    · simp only [hoct, hnew ho]
  · obtain ⟨hoct', hstep'⟩ := hother k hk
    simp only [hoct', hstep', h.env k]

/-- Every register write keeps the cached steps: those of increments and octaves recompute theirs, the others reach no
field of a step. -/
theorem exec_stepsCached {i : Instr} {s t : State} (h : StepsCached s.regs) (hexec : exec i s = .next t) :
    StepsCached t.regs := by
  cases i with
  | wTinc0 | wTinc1 | wTinc2 | wTinc3 | wTinc4 => cases hexec; exact setToneIncrement_stepsCached _ _ h
  | wNinc d => cases hexec; exact ⟨h.tone, pitchShift_toNat .., h.env⟩
  | wOct01 | wOct23 =>
    cases hexec
    exact writeToneNibble_stepsCached _ _ _ (writeToneNibble_stepsCached _ _ _ h)
  | wOct4n => cases hexec; exact writeNoiseNibble_stepsCached _ _ (writeToneNibble_stepsCached _ _ _ h)
  | wEinca | wEincb => cases hexec; exact setEnvIncrement_stepsCached _ _ h
  | wEoct => cases hexec; exact setEnvOctave_stepsCached _ _ (setEnvOctave_stepsCached _ _ h)
  | wEshape d =>
    obtain ⟨u, hu, honly, -⟩ := exec_wEshape d s
    rw [hexec] at hu
    cases hu
    rw [honly]
    exact ⟨h.tone, h.noise, h.env⟩
  | _ => cases hexec; exact ⟨h.tone, h.noise, h.env⟩

/-- Every register write keeps the invariant: it keeps the cached steps and leaves the noise mask, and reaches nothing
else that the invariant speaks of. -/
theorem Inv.after_exec {i : Instr} {s t : State} (h : Inv s) (hexec : exec i s = .next t) : Inv t := by
  obtain ⟨honly, -, hmask, -⟩ := registerWritesReachOnlyTheirOwnState i s t hexec
  obtain ⟨htone, hnoise, henv⟩ := exec_stepsCached h.stepsCached hexec
  rw [honly]
  exact { h with
    toneSteps := htone
    noiseSteps := hnoise
    envSteps := henv
    noiseMaskLegal := hmask ▸ h.noiseMaskLegal }

theorem Inv.after_drain {s t : State} (h : Inv s) (hdrain : drain s = .next t) : Inv t := by
  obtain ⟨-, heq⟩ | ⟨c, rest, hcons, heq⟩ := drain_cases s
  · rw [heq] at hdrain
    cases hdrain
    exact h
  · have hqueue : rest.length ≤ s.settings.writeQueueCapacity := by
      have := h.queueBounded
      rw [hcons, List.length_cons] at this
      omega
    have hrest : Inv { s with writeQueue := rest } := { h with queueBounded := hqueue }
    exact hrest.after_exec (heq.symm.trans hdrain)

/-! ### The update cycle: mask, outputs and ring -/

theorem noiseMaskOf_legal (fb : Bool) : noiseMaskOf fb = 0x00 ∨ noiseMaskOf fb = 0xFF := by
  cases fb
  · exact .inl rfl
  · exact .inr rfl

theorem updateCycle_noiseMask_legal {s : State} (h : s.synth.noiseMask = 0x00 ∨ s.synth.noiseMask = 0xFF) :
    (updateCycle s).synth.noiseMask = 0x00 ∨ (updateCycle s).synth.noiseMask = 0xFF := by
  obtain ⟨-, -, hmask⟩ := updateCycle_noise s
  rw [hmask]
  obtain ⟨-, hstep⟩ | ⟨-, hstep⟩ := noiseStep_cases (toneStep s) <;> rw [hstep]
  · exact h
  · exact noiseMaskOf_legal _

/-- R254: a channel's output is at most a full level times its multiplier. -/
theorem chanSample_le (tone : Bool) (i : Chan) (s : State) :
    chanSample tone i s ≤ 255 * panMult s.params (s.regs.channelConfig.get i) := by
  unfold chanSample
  split
  · exact Nat.mul_le_mul_right _ (Nat.le_of_lt_succ (chanLevel i s).isLt)
  · exact Nat.zero_le _

theorem updateCycle_channelBounded (s : State) (i : Chan) :
    ∃ c, (updateCycle s).out.channelOutput.get i ≤ 255 * panMult s.params c := by
  rw [updateCycle_channelOutput, ← updateCycle_params s]
  exact ⟨_, chanSample_le ..⟩

/-- R256: under the constraint each channel takes at most a fifth of the 32 bits. -/
theorem audible_mul_mixScale_lt {s : State} (hparams : ParamsSound s.params) {i : Chan}
    (hbound : ∃ c, s.out.channelOutput.get i ≤ 255 * panMult s.params c) :
    5 * (audible s i * s.params.mixScale) < 2 ^ 32 := by
  obtain ⟨c, hc⟩ := hbound
  have haudible : audible s i ≤ 255 * panMult s.params c := by
    unfold audible
    split
    · exact Nat.zero_le _
    · exact hc
  calc 5 * (audible s i * s.params.mixScale)
      ≤ 5 * (255 * panMult s.params c * s.params.mixScale) :=
        Nat.mul_le_mul_left _ (Nat.mul_le_mul_right _ haudible)
    _ = 1275 * panMult s.params c * s.params.mixScale := by ring
    _ < 2 ^ 32 := hparams c

theorem mixedSample_lt {s : State} (hparams : ParamsSound s.params)
    (hbound : ∀ i, ∃ c, s.out.channelOutput.get i ≤ 255 * panMult s.params c) : mixedSample s < 2 ^ 32 := by
  have hterm (i : Chan) := audible_mul_mixScale_lt hparams (hbound i)
  have hsum : mixSum s * s.params.mixScale < 2 ^ 32 := by
    have h0 := hterm .c0
    have h1 := hterm .c1
    have h2 := hterm .c2
    have h3 := hterm .c3
    have h4 := hterm .c4
    rw [mixSum_eq]
    simp only [Nat.add_mul]
    omega
  exact Nat.lt_of_le_of_lt (Nat.shiftRight_le ..) hsum

/-- A ring of values below a bound keeps it when such a value is written. -/
theorem Ring.set_lt {r : Ring} {b n v : Nat} (h : r.slot0 < b ∧ r.slot1 < b) (hv : v < b) :
    (r.set n v).slot0 < b ∧ (r.set n v).slot1 < b := by
  obtain ⟨h0, h1⟩ := h
  unfold Ring.set
  split
  · exact ⟨hv, h1⟩
  · exact ⟨h0, hv⟩

theorem Ring.get_lt {r : Ring} {b : Nat} (h : r.slot0 < b ∧ r.slot1 < b) (n : Nat) : r.get n < b := by
  obtain ⟨h0, h1⟩ := h
  unfold Ring.get
  split
  · exact h0
  · exact h1

theorem Inv.after_updateCycle {s : State} (h : Inv s) : Inv (updateCycle s) := by
  have hmixed : mixedSample (updateCycle s) < 2 ^ 32 := by
    apply mixedSample_lt <;> rw [updateCycle_params]
    · exact h.paramsSound
    · exact updateCycle_channelBounded s
  have hring : (updateCycle s).out.delayRing.slot0 < 2 ^ 32 ∧ (updateCycle s).out.delayRing.slot1 < 2 ^ 32 := by
    rw [updateCycle_delayRing_eq]
    exact Ring.set_lt h.ringBounded hmixed
  rw [updateCycleFrame s]
  exact { h with
    noiseMaskLegal := updateCycle_noiseMask_legal h.noiseMaskLegal
    channelBounded := updateCycle_channelBounded s
    ringBounded := hring }

theorem Inv.after_updateIfDue {s : State} (h : Inv s) : Inv (updateIfDue s) := by
  by_cases hdue : s.clockCycle.toNat % 512 = 0
  · rw [updateIfDue_of_due hdue]
    exact h.after_updateCycle
  · rwa [updateIfDue_of_not_due hdue]

/-! ### The rest of the tick -/

/-- R45: the output is a delayed sample, or a level of at most 32 bits. -/
theorem Inv.pwmOutput_lt {s : State} (h : Inv s) : pwmOutput s < 2 ^ 32 := by
  have hdelayed : delayed s < 2 ^ 32 := Ring.get_lt h.ringBounded _
  have hhigh : pwmHigh s < 2 ^ 32 := by
    obtain ⟨-, hbits⟩ := h.bitdepthLegal
    have hle : 2 ^ s.settings.outputBitdepth ≤ 2 ^ 32 := Nat.pow_le_pow_right (by omega) hbits
    have hpos := Nat.two_pow_pos s.settings.outputBitdepth
    unfold pwmHigh
    omega
  unfold pwmOutput pwmExact
  split
  · exact hdelayed
  · split
    · exact Nat.two_pow_pos 32
    · exact hhigh

theorem Inv.after_finishTick {s : State} (h : Inv s) : Inv (finishTick s) := by
  have hupdate := h.after_updateIfDue
  rw [finishTick_eq]
  exact { hupdate with currentBounded := hupdate.pwmOutput_lt }

/-- Settles O41: the drain and then the rest of the tick keep the invariant. -/
theorem everyStepKeepsTheInvariant : Obligations.EveryStepKeepsTheInvariant := by
  intro s t h hstep
  obtain ⟨u, hdrain, rfl⟩ := step_next hstep
  exact (h.after_drain hdrain).after_finishTick

end Sys2Proof.Machine
end

section
/-! PROOFS. One call of produceSample and many: the ticks they run, the fraction they keep and the values they return
(R283 to R287). -/

namespace Sys2Proof.Machine

/-! ### One call -/

/-- All a sample can do: begin, run the ticks due, and end. -/
theorem produceSample_inv {s t : State} {v : Nat} (h : produceSample s = .next (t, v)) :
    ∃ u, runTicks (ticksDue s) (beginSample s) = .next u ∧ t = endSample (ticksDue s) u ∧
      v = sampleValue (ticksDue s) u := by
  obtain ⟨u, hrun, -⟩ := runTicks_writeQueue (ticksDue s) (beginSample s)
  rw [produceSample_of_runTicks hrun] at h
  cases h
  exact ⟨u, hrun, rfl, rfl⟩

/-- What every sample does to the clock, the accumulator, the queue and the record, and what it leaves. -/
theorem produceSample_frame {s t : State} {v : Nat} (h : produceSample s = .next (t, v)) :
    t.clockCycle = s.clockCycle + BitVec.ofNat 32 (ticksDue s) ∧
    t.tickAccumulator = s.tickAccumulator + s.settings.ticksPerOutputSample - ticksDue s ∧
    t.writeQueue = s.writeQueue.drop (ticksDue s) ∧ t.settings = s.settings ∧ t.recorded = [] := by
  obtain ⟨u, hrun, rfl, -⟩ := produceSample_inv h
  obtain ⟨hclock, hsettings, -, hacc⟩ := runTicks_frame hrun
  obtain ⟨u', hrun', hqueue⟩ := runTicks_writeQueue (ticksDue s) (beginSample s)
  rw [hrun] at hrun'
  cases hrun'
  exact ⟨hclock, congrArg (· - (ticksDue s : Rat)) hacc, hqueue, hsettings, rfl⟩

theorem Inv.ratio_pos {s : State} (h : Inv s) : 0 < s.settings.ticksPerOutputSample := by
  obtain ⟨hclock, hrate⟩ := h.ratesPositive
  rw [h.ratioExact]
  exact div_pos (Nat.cast_pos.2 hclock) (Nat.cast_pos.2 hrate)

/-- The ticks due are the floor of the accumulation, which is not negative. -/
theorem Inv.ticksDue_eq {s : State} (h : Inv s) :
    (ticksDue s : Int) = ⌊s.tickAccumulator + s.settings.ticksPerOutputSample⌋ :=
  Int.toNat_of_nonneg (Int.floor_nonneg.2 (add_nonneg h.accumulatorNonneg h.ratio_pos.le))

theorem Inv.ticksDue_cast {s : State} (h : Inv s) :
    (ticksDue s : Rat) = ⌊s.tickAccumulator + s.settings.ticksPerOutputSample⌋ := by
  rw [← h.ticksDue_eq, Int.cast_natCast]

/-- After a sample the accumulator is the fraction of the accumulation. -/
theorem Inv.produceSample_tickAccumulator {s t : State} {v : Nat} (h : Inv s)
    (hsample : produceSample s = .next (t, v)) :
    t.tickAccumulator = Int.fract (s.tickAccumulator + s.settings.ticksPerOutputSample) := by
  obtain ⟨-, hacc, -⟩ := produceSample_frame hsample
  rw [hacc, h.ticksDue_cast, Int.self_sub_floor]

/-- A sample keeps the invariant between calls: its ticks keep the invariant, and its end takes the whole ticks out of
the accumulator and empties the record. -/
theorem Idle.after_produceSample {s t : State} {v : Nat} (h : Idle s) (hsample : produceSample s = .next (t, v)) :
    Idle t := by
  have hacc := h.inv.produceSample_tickAccumulator hsample
  obtain ⟨u, hrun, rfl, -⟩ := produceSample_inv hsample
  have hbegin : Inv (beginSample s) :=
    { h.inv with accumulatorNonneg := add_nonneg h.inv.accumulatorNonneg h.inv.ratio_pos.le }
  have hend : Inv u := runTicks_keeps everyStepKeepsTheInvariant hbegin hrun
  exact ⟨{ hend with accumulatorNonneg := hacc ▸ Int.fract_nonneg _ }, hacc ▸ Int.fract_lt_one _, rfl⟩

/-- Adding a fraction to a number moves its floor to no more than its ceiling. -/
theorem floor_add_eq_floor_or_ceil {a r : Rat} (h0 : 0 ≤ a) (h1 : a < 1) : ⌊a + r⌋ = ⌊r⌋ ∨ ⌊a + r⌋ = ⌈r⌉ := by
  have hge : ⌊r⌋ ≤ ⌊a + r⌋ := Int.floor_le_floor (le_add_of_nonneg_left h0)
  have hlt : ⌊a + r⌋ - 1 < ⌈r⌉ := by
    rw [Int.lt_ceil, Int.cast_sub, Int.cast_one]
    linarith [Int.floor_le (a + r)]
  have hceil := Int.ceil_le_floor_add_one r
  omega

/-- Settles O45: the run takes the floor of the accumulation, and the accumulator keeps its fraction. -/
theorem sampleRunsTheWholeTicks : Obligations.SampleRunsTheWholeTicks := by
  intro s t v hidle hsample
  obtain ⟨hclock, hacc, hqueue, -⟩ := produceSample_frame hsample
  have hafter := hidle.after_produceSample hsample
  refine ⟨ticksDue s, hidle.inv.ticksDue_eq, ?_, hclock, hacc, hafter.inv.accumulatorNonneg,
    hafter.accumulatorBelowOne, hqueue⟩
  rw [hidle.inv.ticksDue_eq]
  exact floor_add_eq_floor_or_ceil hidle.inv.accumulatorNonneg hidle.accumulatorBelowOne

/-! ### Many calls -/

theorem runSamples_succ_of_produceSample {s t : State} {v : Nat} (k : Nat) (h : produceSample s = .next (t, v)) :
    runSamples (k + 1) s = runSamples k t := by
  simp [runSamples, h]

/-- Over `k` samples from any accumulator, the ticks are the floor of the accumulator plus `k` ratios, and the
accumulator keeps the fraction of the same number. -/
theorem runSamples_spec (k : Nat) {s : State} (h : Idle s) : ∃ t, runSamples k s = .next t ∧
    t.clockCycle = s.clockCycle +
      BitVec.ofNat 32 ⌊s.tickAccumulator + (k : Rat) * s.settings.ticksPerOutputSample⌋.toNat ∧
    t.tickAccumulator = Int.fract (s.tickAccumulator + (k : Rat) * s.settings.ticksPerOutputSample) := by
  induction k generalizing s with
  | zero =>
    have hacc : s.tickAccumulator ∈ Set.Ico (0 : Rat) 1 := ⟨h.inv.accumulatorNonneg, h.accumulatorBelowOne⟩
    refine ⟨s, rfl, ?_, ?_⟩ <;> rw [Nat.cast_zero, zero_mul, add_zero]
    · rw [Int.floor_eq_zero_iff.2 hacc]
      simp
    · exact (Int.fract_eq_self.2 hacc).symm
  | succ k ih =>
    obtain ⟨u, v, hsample⟩ := produceSample_next s
    obtain ⟨hclock, hacc, -, hsettings, -⟩ := produceSample_frame hsample
    have hafter := h.after_produceSample hsample
    obtain ⟨t, hrun, hclock', hacc'⟩ := ih hafter
    have hsum : s.tickAccumulator + ((k + 1 : Nat) : Rat) * s.settings.ticksPerOutputSample =
        u.tickAccumulator + (k : Rat) * u.settings.ticksPerOutputSample + ((ticksDue s : Nat) : Rat) := by
      rw [hacc, hsettings]
      push_cast
      ring
    have hfloor : 0 ≤ ⌊u.tickAccumulator + (k : Rat) * u.settings.ticksPerOutputSample⌋ :=
      Int.floor_nonneg.2 (add_nonneg hafter.inv.accumulatorNonneg
        (mul_nonneg (Nat.cast_nonneg k) hafter.inv.ratio_pos.le))
    refine ⟨t, (runSamples_succ_of_produceSample k hsample).trans hrun, ?_, ?_⟩
    · rw [hsum, Int.floor_add_natCast, Int.toNat_add hfloor (Int.natCast_nonneg _), Int.toNat_natCast, hclock', hclock,
        BitVec.ofNat_add, BitVec.add_assoc, BitVec.add_comm (BitVec.ofNat 32 (ticksDue s))]
    · rw [hsum, Int.fract_add_natCast, hacc']

/-- Settles O46: the case of an accumulator of 0. -/
theorem ticksOverManyCalls : Obligations.TicksOverManyCalls := by
  intro s k hidle hzero
  obtain ⟨t, hrun, hclock, hacc⟩ := runSamples_spec k hidle
  rw [hzero, zero_add] at hclock hacc
  exact ⟨t, hrun, hclock, hacc, hacc ▸ Int.fract_nonneg _, hacc ▸ Int.fract_lt_one _⟩

/-! ### The value -/

theorem tickOutputs_succ_of_step {s t : State} (n : Nat) (h : step s = .next t) :
    tickOutputs (n + 1) s = t.out.currentOutput :: tickOutputs n t := by
  simp [tickOutputs, h]

theorem tickOutputs_length (n : Nat) (s : State) : (tickOutputs n s).length = n := by
  induction n generalizing s with
  | zero => rfl
  | succ n ih =>
    obtain ⟨t, hstep, -⟩ := step_writeQueue s
    rw [tickOutputs_succ_of_step n hstep, List.length_cons, ih]

/-- At quality 1 a run appends the outputs of its ticks to the record. -/
theorem runTicks_recorded {n : Nat} {s t : State} (hmean : s.settings.quality = .mean) (h : runTicks n s = .next t) :
    t.recorded = s.recorded ++ tickOutputs n s := by
  induction n generalizing s with
  | zero => rw [runTicks_zero_next h, tickOutputs, List.append_nil]
  | succ n ih =>
    obtain ⟨u, hstep, -⟩ := step_writeQueue s
    obtain ⟨-, -, hsettings, -⟩ := step_frame hstep
    rw [runTicks_succ_of_step n hstep] at h
    rw [ih (by rwa [hsettings]) h, step_recorded hstep, if_pos hmean, tickOutputs_succ_of_step n hstep,
      List.append_assoc, List.singleton_append]

theorem sampleValue_of_nearest {s : State} (n : Nat) (h : s.settings.quality = .nearest) :
    sampleValue n s = s.out.currentOutput := by
  rw [sampleValue, h]

theorem sampleValue_zero (s : State) : sampleValue 0 s = s.out.currentOutput := by
  unfold sampleValue
  cases s.settings.quality <;> rfl

theorem sampleValue_of_mean {s : State} {n : Nat} (h : s.settings.quality = .mean) (hn : n ≠ 0) :
    sampleValue n s = s.recorded.sum / n := by
  rw [sampleValue, h]
  exact if_neg hn

/-- Settles O47: the value is read from the state the run leaves, whose record at quality 1 is the run's outputs. -/
theorem sampleIsTheLastOutputOrTheMean : Obligations.SampleIsTheLastOutputOrTheMean := by
  intro s t v hidle hsample
  obtain ⟨u, hrun, rfl, rfl⟩ := produceSample_inv hsample
  obtain ⟨-, hsettings, -⟩ := runTicks_frame hrun
  have hquality : u.settings.quality = s.settings.quality := congrArg Settings.quality hsettings
  refine ⟨fun h => ?last, fun hmean hdue => ⟨tickOutputs_length .., ?mean⟩, fun hdue => ?none⟩
  case last =>
    obtain hnearest | hdue := h
    · exact sampleValue_of_nearest _ (hquality.trans hnearest)
    · rw [hdue]
      exact sampleValue_zero u
  case mean =>
    rw [sampleValue_of_mean (hquality.trans hmean) hdue.ne', runTicks_recorded (s := beginSample s) hmean hrun]
    rfl
  case none =>
    rw [hdue] at hrun ⊢
    rw [runTicks_zero_next hrun, endSample, Nat.cast_zero, beginSample, sub_zero, ← hidle.recordEmpty]

/-! ### Emptying the queue -/

/-- Samples that run a tick for each entry empty the queue: with `n` samples left, the entries are at most the
accumulator plus `n` ratios. -/
theorem drainSamples_empties (n : Nat) {s : State} (h : Idle s)
    (hlen : (s.writeQueue.length : Rat) ≤ s.tickAccumulator + n * s.settings.ticksPerOutputSample) :
    ∃ t rs, drainSamples n s = .next (t, rs) ∧ hasPendingWrites t = false ∧ Idle t := by
  induction n generalizing s with
  | zero =>
    rw [Nat.cast_zero, zero_mul, add_zero] at hlen
    have hlt : (s.writeQueue.length : Rat) < (1 : Nat) := Nat.cast_one (R := Rat) ▸ hlen.trans_lt h.accumulatorBelowOne
    have hempty : s.writeQueue.length < 1 := Nat.cast_lt.1 hlt
    exact ⟨s, [], rfl, decide_eq_false (by omega), h⟩
  | succ n ih =>
    cases hpending : hasPendingWrites s with
    | false => exact ⟨s, [], by rw [drainSamples, hpending]; rfl, hpending, h⟩
    | true =>
      obtain ⟨u, v, hsample⟩ := produceSample_next s
      obtain ⟨-, hacc, hqueue, hsettings, -⟩ := produceSample_frame hsample
      have hafter := h.after_produceSample hsample
      have hlen' : (u.writeQueue.length : Rat) ≤ u.tickAccumulator + n * u.settings.ticksPerOutputSample := by
        rw [hqueue, List.length_drop]
        by_cases hle : s.writeQueue.length ≤ ticksDue s
        · rw [Nat.sub_eq_zero_of_le hle, Nat.cast_zero]
          exact add_nonneg hafter.inv.accumulatorNonneg (mul_nonneg (Nat.cast_nonneg n) hafter.inv.ratio_pos.le)
        · rw [Nat.cast_sub (by omega), hacc, hsettings]
          rw [Nat.cast_succ, add_one_mul] at hlen
          linarith
      obtain ⟨t, rs, hdrain, hnone, hidle⟩ := ih hafter hlen'
      refine ⟨t, .sample v :: rs, ?_, hnone, hidle⟩
      simp [drainSamples, hpending, hostCall, hsample, hdrain]

/-- The bound is enough: that many ratios are at least as many ticks as there are entries. -/
theorem length_le_drainBound_mul {s : State} (h : Inv s) :
    (s.writeQueue.length : Rat) ≤ drainBound s * s.settings.ticksPerOutputSample := by
  rw [← div_le_iff₀ h.ratio_pos]
  have hbound : ((s.writeQueue.length : Rat) / s.settings.ticksPerOutputSample).ceil ≤ (drainBound s : Int) :=
    Int.self_le_toNat _
  calc (s.writeQueue.length : Rat) / s.settings.ticksPerOutputSample
      ≤ ((s.writeQueue.length : Rat) / s.settings.ticksPerOutputSample).ceil := Rat.le_ceil
    _ ≤ ((drainBound s : Int) : Rat) := Int.cast_le.2 hbound
    _ = drainBound s := Int.cast_natCast _

/-- Settles O56: the line's bound of samples is enough, whatever the accumulator adds. -/
theorem drainEmptiesTheQueue : Obligations.DrainEmptiesTheQueue := by
  intro s hidle
  have hbound := length_le_drainBound_mul hidle.inv
  exact drainSamples_empties (drainBound s) hidle (by linarith [hidle.inv.accumulatorNonneg])

end Sys2Proof.Machine
end

section
/-! PROOFS. The host calls on one core: what each can do, the invariant between calls, and silence (R110, R287 to
R298, R314, R330 to R336). -/

namespace Sys2Proof.Machine

/-! ### What a call can do -/

theorem setClockAndRate_of_pos {c r : Nat} (hc : 0 < c) (hr : 0 < r) (alloc : Bool) (s : State) :
    setClockAndRate c r alloc s = .next (retime c r alloc s) := by
  rw [setClockAndRate, if_neg hc.ne', if_neg hr.ne']

theorem setClockAndRate_next {c r : Nat} {alloc : Bool} {s t : State} (h : setClockAndRate c r alloc s = .next t) :
    0 < c ∧ 0 < r ∧ t = retime c r alloc s := by
  unfold setClockAndRate at h
  split_ifs at h with hc hr
  cases h
  exact ⟨Nat.pos_of_ne_zero hc, Nat.pos_of_ne_zero hr, rfl⟩

theorem setOutputType_next {n : Nat} {s t : State} (h : setOutputType n s = .next t) :
    ∃ type, outputTypeOf n = some type ∧ t = { s with settings := { s.settings with outputType := type } } := by
  unfold setOutputType at h
  split at h
  · next type htype =>
    cases h
    exact ⟨type, htype, rfl⟩
  · cases h

/-- The effect of each call on its core, for the arguments that are let through (R295). -/
inductive CallEffect (s : State) : HostCall → State → Prop where
  | reset : CallEffect s .reset (resetCall s)
  | setClockAndRate {c r : Nat} (hc : 0 < c) (hr : 0 < r) (alloc : Bool) :
      CallEffect s (.setClockAndRate c r alloc) (retime c r alloc s)
  | setOutputType {n : Nat} {type : OutputType} (h : outputTypeOf n = some type) :
      CallEffect s (.setOutputType n) { s with settings := { s.settings with outputType := type } }
  | setQuality (l : Nat) : CallEffect s (.setQuality l) (setQuality l s)
  | setMute (n : Nat) (b : Bool) : CallEffect s (.setMute n b) (setMute n b s)
  | enqueueWrite (a d : Nat) :
      CallEffect s (.enqueueWrite a d) (pushWrite ⟨BitVec.ofNat 7 a, BitVec.ofNat 8 d⟩ s)
  | hasPendingWrites : CallEffect s .hasPendingWrites s
  | produceSample {t : State} {v : Nat} (h : produceSample s = .next (t, v)) : CallEffect s .produceSample t
  | produceSampleU (w : SampleWidth) {t : State} {v : Nat} (h : produceSample s = .next (t, v)) :
      CallEffect s (.produceSampleU w) t
  | produceSampleS (w : SampleWidth) {t : State} {v : Nat} (h : produceSample s = .next (t, v)) :
      CallEffect s (.produceSampleS w) t

/-- A sample call and its rescaled variants answer the state and the value of one produceSample (R298). -/
theorem hostCall_sample {s t : State} {v : Nat} (h : produceSample s = .next (t, v)) :
    hostCall .produceSample s = .next (t, .sample v) ∧
    ∀ w, hostCall (.produceSampleU w) s = .next (t, .sample (rescaleUnsigned w.bits s.settings.outputBitdepth v)) ∧
      hostCall (.produceSampleS w) s = .next (t, .signedSample (rescaleSigned w.bits s.settings.outputBitdepth v)) := by
  simp [hostCall, produceSampleU, produceSampleS, h]

/-- A call that answers a next state has had its effect. -/
theorem hostCall_effect {c : HostCall} {s t : State} {r : CallResult} (h : hostCall c s = .next (t, r)) :
    CallEffect s c t := by
  obtain ⟨u, v, hsample⟩ := produceSample_next s
  obtain ⟨hraw, hrescaled⟩ := hostCall_sample hsample
  cases c with
  | reset => cases h; exact .reset
  | setClockAndRate c r alloc =>
    simp only [hostCall] at h
    split at h
    case h_1 u hu =>
      cases h
      obtain ⟨hc, hr, rfl⟩ := setClockAndRate_next hu
      exact .setClockAndRate hc hr alloc
    all_goals cases h
  | setOutputType n =>
    simp only [hostCall] at h
    split at h
    case h_1 u hu =>
      cases h
      obtain ⟨type, htype, rfl⟩ := setOutputType_next hu
      exact .setOutputType htype
    all_goals cases h
  | setQuality l => cases h; exact .setQuality l
  | setMute n b => cases h; exact .setMute n b
  | enqueueWrite a d =>
    simp only [hostCall] at h
    split at h
    case h_1 u hu =>
      cases h
      rw [enqueueWrite_next hu]
      exact .enqueueWrite a d
    all_goals cases h
  | hasPendingWrites => cases h; exact .hasPendingWrites
  | produceSample =>
    rw [hraw] at h
    cases h
    exact .produceSample hsample
  | produceSampleU w =>
    rw [(hrescaled w).1] at h
    cases h
    exact .produceSampleU w hsample
  | produceSampleS w =>
    rw [(hrescaled w).2] at h
    cases h
    exact .produceSampleS w hsample

/-! ### The invariant between calls -/

/-- A change of the settings that keeps what the invariant says of them keeps the invariant between calls. -/
theorem Idle.with_settings {s : State} (h : Idle s) {x : Settings}
    (hratio : x.ticksPerOutputSample = (x.clockHz : Rat) / (x.sampleRateHz : Rat))
    (hrates : 0 < x.clockHz ∧ 0 < x.sampleRateHz) (hquality : x.scratchAvailable = false → x.quality = .nearest)
    (hdepth : x.outputBitdepth = s.settings.outputBitdepth)
    (hcapacity : x.writeQueueCapacity = s.settings.writeQueueCapacity) : Idle { s with settings := x } :=
  ⟨{ h.inv with
      queueBounded := hcapacity ▸ h.inv.queueBounded
      ratioExact := hratio
      ratesPositive := hrates
      qualityNeedsScratch := hquality
      bitdepthLegal := hdepth ▸ h.inv.bitdepthLegal }, h.accumulatorBelowOne, h.recordEmpty⟩

theorem Idle.retime {s : State} (h : Idle s) {c r : Nat} (hc : 0 < c) (hr : 0 < r) (alloc : Bool) :
    Idle (retime c r alloc s) :=
  h.with_settings (tickRatio_eq ..) ⟨hc, hr⟩ (fun (halloc : alloc = false) => by rw [halloc]; rfl) rfl rfl

theorem Idle.setQuality {s : State} (h : Idle s) (l : Nat) : Idle (setQuality l s) :=
  h.with_settings h.inv.ratioExact h.inv.ratesPositive
    (fun (hscratch : s.settings.scratchAvailable = false) => by simp [hscratch]) rfl rfl

theorem setMute_cases (n : Nat) (b : Bool) (s : State) :
    (∃ i, Chan.ofNat? n = some i ∧
      setMute n b s = { s with settings := { s.settings with mute := s.settings.mute.set i b } }) ∨
    (Chan.ofNat? n = none ∧ setMute n b s = s) := by
  unfold setMute
  cases Chan.ofNat? n with
  | none => exact .inr ⟨rfl, rfl⟩
  | some i => exact .inl ⟨i, rfl, rfl⟩

theorem Idle.setMute {s : State} (h : Idle s) (n : Nat) (b : Bool) : Idle (setMute n b s) := by
  obtain ⟨i, -, heq⟩ | ⟨-, heq⟩ := setMute_cases n b s <;> rw [heq]
  · exact h.with_settings h.inv.ratioExact h.inv.ratesPositive h.inv.qualityNeedsScratch rfl rfl
  · exact h

theorem Idle.pushWrite {s : State} (h : Idle s) (c : WriteCmd) : Idle (pushWrite c s) := by
  obtain ⟨hroom, heq⟩ | ⟨-, heq⟩ := pushWrite_cases c s <;> rw [heq]
  · have hqueue : (s.writeQueue ++ [c]).length ≤ s.settings.writeQueueCapacity := by
      rw [List.length_append, List.length_singleton]
      omega
    exact ⟨{ h.inv with queueBounded := hqueue }, h.accumulatorBelowOne, h.recordEmpty⟩
  · exact h

/-- Reset gives everything that runs its reset value and keeps the rest (R330, R331). -/
theorem Idle.resetCall {s : State} (h : Idle s) : Idle (resetCall s) :=
  ⟨inv_of_reset rfl rfl rfl rfl h.inv.queueBounded h.inv.ratioExact h.inv.ratesPositive h.inv.qualityNeedsScratch
    h.inv.bitdepthLegal h.inv.paramsSound, zero_lt_one, h.recordEmpty⟩

/-- Settles O42: the effect of each call keeps the invariant between calls. -/
theorem everyHostCallKeepsTheInvariant : Obligations.EveryHostCallKeepsTheInvariant := by
  intro c s t r hidle h
  cases hostCall_effect h with
  | reset => exact hidle.resetCall
  | setClockAndRate hc hr alloc => exact hidle.retime hc hr alloc
  | setOutputType =>
    exact hidle.with_settings hidle.inv.ratioExact hidle.inv.ratesPositive hidle.inv.qualityNeedsScratch rfl rfl
  | setQuality l => exact hidle.setQuality l
  | setMute n b => exact hidle.setMute n b
  | enqueueWrite a d => exact hidle.pushWrite _
  | hasPendingWrites => exact hidle
  | produceSample hsample | produceSampleU w hsample | produceSampleS w hsample =>
    exact hidle.after_produceSample hsample

/-! ### Silence -/

theorem TonePitchOnly.volume_config {s t : State} (h : TonePitchOnly s t) :
    t.regs.staticVolume = s.regs.staticVolume ∧ t.regs.channelConfig = s.regs.channelConfig := by
  rw [h]
  exact ⟨rfl, rfl⟩

/-- A write to an address outside 16 to 25 leaves the static volumes and the channel configs (R93). -/
theorem exec_volume_config {i : Instr} {s t : State} (hexec : exec i s = .next t)
    (haddr : i.address.toNat < 16 ∨ 25 < i.address.toNat) :
    t.regs.staticVolume = s.regs.staticVolume ∧ t.regs.channelConfig = s.regs.channelConfig := by
  cases i with
  | wVol0 | wVol1 | wVol2 | wVol3 | wVol4 | wCfg0 | wCfg1 | wCfg2 | wCfg3 | wCfg4 =>
    simp [Instr.address] at haddr
  | wOct01 | wOct23 =>
    cases hexec
    exact (writeToneNibbles_tonePitchOnly ..).volume_config
  | wOct4n o r p q =>
    cases hexec
    obtain ⟨_, _, hnoise, -⟩ := writeNoiseNibble_spec p q (writeToneNibble .c4 o r s)
    rw [hnoise, writeToneNibble_tonePitchOnly .c4 o r s]
    exact ⟨rfl, rfl⟩
  | wEoct a b =>
    cases hexec
    obtain ⟨_, _, hA, -⟩ := setEnvOctave_spec .A a s
    obtain ⟨_, _, hB, -⟩ := setEnvOctave_spec .B b (setEnvOctave .A a s)
    rw [hB, hA]
    exact ⟨rfl, rfl⟩
  | wEshape d =>
    obtain ⟨u, hu, honly, -⟩ := exec_wEshape d s
    rw [hexec] at hu
    cases hu
    rw [honly]
    exact ⟨rfl, rfl⟩
  | _ =>
    cases hexec
    exact ⟨rfl, rfl⟩

/-- What no register write outside addresses 16 to 25 can break: the volumes are 0 and the envelopes are off. -/
def ChannelsQuiet (s : State) : Prop :=
  (∀ i, s.regs.staticVolume.get i = 0) ∧ ∀ i, (s.regs.channelConfig.get i).getLsbD 6 = false

theorem Silent.channelsQuiet_of_drain {s u : State} (h : Silent s) (hdrain : drain s = .next u) : ChannelsQuiet u := by
  obtain ⟨-, heq⟩ | ⟨c, rest, hcons, heq⟩ := drain_cases s
  · rw [heq] at hdrain
    cases hdrain
    exact ⟨h.volumesZero, h.envelopesOff⟩
  · obtain ⟨-, haddr, -⟩ := decodeWord_wf_address_dataByte c.word
    have hquiet : (decodeWord c.word).address.toNat < 16 ∨ 25 < (decodeWord c.word).address.toNat := by
      rw [haddr, wordAddr_word]
      exact h.queueQuiet c (hcons ▸ List.mem_cons_self)
    obtain ⟨hvolume, hconfig⟩ := exec_volume_config (heq.symm.trans hdrain) hquiet
    rw [ChannelsQuiet, hvolume, hconfig]
    exact ⟨h.volumesZero, h.envelopesOff⟩

/-- With quiet channels every output of an update cycle is 0, whatever tone, noise and envelopes do (R335). -/
theorem ChannelsQuiet.mixedSample_eq_zero {s : State} (h : ChannelsQuiet s) : mixedSample (updateCycle s) = 0 := by
  obtain ⟨hvolume, hconfig⟩ := h
  have hout (i : Chan) : audible (updateCycle s) i = 0 := by
    have hlevel : (chanLevel i (updateCycle s)).toNat = 0 := by
      rw [chanLevel_toNat, updateCycle_regs, hconfig, hvolume]
      rfl
    rw [audible, updateCycle_channelOutput, chanSample, hlevel, Nat.zero_mul, ite_self, ite_self]
  rw [mixedSample, mixSum_eq]
  simp only [hout, Nat.zero_mul, Nat.add_zero, Nat.zero_shiftRight]

theorem Ring.zero_set_zero (n : Nat) : (Ring.mk 0 0).set n 0 = ⟨0, 0⟩ := by
  unfold Ring.set
  split <;> rfl

theorem Ring.zero_get (n : Nat) : (Ring.mk 0 0).get n = 0 := by
  unfold Ring.get
  split <;> rfl

theorem ChannelsQuiet.delayRing_updateIfDue {s : State} (h : ChannelsQuiet s) (hring : s.out.delayRing = ⟨0, 0⟩) :
    (updateIfDue s).out.delayRing = ⟨0, 0⟩ := by
  by_cases hdue : s.clockCycle.toNat % 512 = 0
  · rw [updateIfDue_of_due hdue, updateCycle_delayRing_eq, h.mixedSample_eq_zero, hring, Ring.zero_set_zero]
  · rw [updateIfDue_of_not_due hdue, hring]

/-- A step keeps silence: the write it drains leaves the volumes and configs, so the sample it may mix is 0. -/
theorem Silent.step {s t : State} (h : Silent s) (hstep : step s = .next t) : Silent t := by
  have hinv := everyStepKeepsTheInvariant s t h.inv hstep
  obtain ⟨-, hqueue, -⟩ := step_frame hstep
  obtain ⟨u, hdrain, rfl⟩ := step_next hstep
  have hquiet := h.channelsQuiet_of_drain hdrain
  have hring : u.out.delayRing = ⟨0, 0⟩ := by rw [drain_next hdrain, h.ringZero]
  refine ⟨hinv, ?_, ?_, ?_, fun c hc => h.queueQuiet c (List.mem_of_mem_tail (hqueue ▸ hc))⟩
  · rw [finishTick_regs]
    exact hquiet.1
  · rw [finishTick_regs]
    exact hquiet.2
  · rw [finishTick_delayRing]
    exact hquiet.delayRing_updateIfDue hring

/-- A created core and a reset one have zero volumes and configs and a zero ring (R335). -/
theorem silent_of_reset {s : State} (hinv : Inv s) (hregs : s.regs = .reset) (hout : s.out = .reset)
    (hqueue : ∀ c ∈ s.writeQueue, c.addr.toNat < 16 ∨ 25 < c.addr.toNat) : Silent s := by
  refine ⟨hinv, fun i => ?_, fun i => ?_, ?_, hqueue⟩
  · rw [hregs]
    cases i <;> rfl
  · rw [hregs]
    cases i <;> rfl
  · rw [hout]
    rfl

/-- Settles O43: a step keeps silence, and the output of a silent state compares a sample of 0 with the low byte. -/
theorem silentUntilWritten : Obligations.SilentUntilWritten := by
  refine ⟨fun s h => ?step, fun a scratch ha => ?create, fun s hidle hqueue => ?reset⟩
  case step =>
    obtain ⟨t, hstep, -⟩ := step_writeQueue s
    refine ⟨t, hstep, h.step hstep, fun happrox => ?_, fun hexact => ?_⟩
    · rw [step_currentOutput hstep, pwmOutput_of_approx happrox, h.ringZero, Ring.zero_get]
    · rw [step_currentOutput hstep, pwmOutput_of_exact hexact, h.ringZero, Ring.zero_get]
      by_cases hlow : s.clockCycle.toNat % 256 = 0
      · rw [if_neg (by omega), if_pos hlow]
      · rw [if_pos (by omega), if_neg hlow]
  case create =>
    exact silent_of_reset (createdInstancesSatisfyTheInvariant a scratch ha).inv rfl rfl nofun
  case reset =>
    exact ⟨resetCall s, rfl, silent_of_reset hidle.resetCall.inv rfl rfl hqueue⟩

/-! ### Time -/

/-- Settles O53: the effects other than reset and samples change settings or append to the queue. -/
theorem onlySamplesAdvanceTime : Obligations.OnlySamplesAdvanceTime := by
  intro c s t r h hreset hsample hsampleU hsampleS
  cases hostCall_effect h with
  | reset => exact absurd rfl hreset
  | setClockAndRate | setOutputType | setQuality | hasPendingWrites =>
    exact ⟨rfl, rfl, rfl, rfl, rfl, [], List.append_nil _⟩
  | setMute n b =>
    obtain ⟨i, -, heq⟩ | ⟨-, heq⟩ := setMute_cases n b s <;> rw [heq] <;>
      exact ⟨rfl, rfl, rfl, rfl, rfl, [], List.append_nil _⟩
  | enqueueWrite a d =>
    obtain ⟨-, heq⟩ | ⟨-, heq⟩ := pushWrite_cases ⟨BitVec.ofNat 7 a, BitVec.ofNat 8 d⟩ s <;> rw [heq]
    · exact ⟨rfl, rfl, rfl, rfl, rfl, _, rfl⟩
    · exact ⟨rfl, rfl, rfl, rfl, rfl, [], List.append_nil _⟩
  | produceSample => exact absurd rfl hsample
  | produceSampleU w => exact absurd rfl (hsampleU w)
  | produceSampleS w => exact absurd rfl (hsampleS w)

end Sys2Proof.Machine
end

section
/-! PROOFS. The rescaled results: their shift, their range and their fixed points (R292, R293, R298). -/

namespace Sys2Proof.Machine

theorem rescaleUnsigned_of_le {n bd : Nat} (h : bd ≤ n) (r : Nat) :
    rescaleUnsigned n bd r = r * 2 ^ (n - bd) % 2 ^ n := by
  rw [rescaleUnsigned, if_pos h, Nat.shiftLeft_eq]

theorem rescaleUnsigned_of_lt {n bd : Nat} (h : n < bd) (r : Nat) :
    rescaleUnsigned n bd r = r / 2 ^ (bd - n) % 2 ^ n := by
  rw [rescaleUnsigned, if_neg (Nat.not_le.2 h), Nat.shiftRight_eq_div_pow]

theorem rescaleUnsigned_lt (n bd r : Nat) : rescaleUnsigned n bd r < 2 ^ n := Nat.mod_lt _ (Nat.two_pow_pos n)

/-- A raw result that fits a bit depth of at most `n` is shifted without loss. -/
theorem rescaleUnsigned_of_le_of_lt_two_pow {n bd r : Nat} (h : bd ≤ n) (hr : r < 2 ^ bd) :
    rescaleUnsigned n bd r = r * 2 ^ (n - bd) := by
  have hlt : r * 2 ^ (n - bd) < 2 ^ bd * 2 ^ (n - bd) := Nat.mul_lt_mul_of_pos_right hr (Nat.two_pow_pos _)
  rw [pow_mul_pow_sub 2 h] at hlt
  rw [rescaleUnsigned_of_le h, Nat.mod_eq_of_lt hlt]

/-- A raw result that fits a bit depth above `n` fits `n` bits once it is shifted. -/
theorem rescaleUnsigned_of_lt_of_lt_two_pow {n bd r : Nat} (h : n < bd) (hr : r < 2 ^ bd) :
    rescaleUnsigned n bd r = r / 2 ^ (bd - n) := by
  have hlt : r / 2 ^ (bd - n) < 2 ^ n := by
    rw [Nat.div_lt_iff_lt_mul (Nat.two_pow_pos _), pow_mul_pow_sub 2 h.le]
    exact hr
  rw [rescaleUnsigned_of_lt h, Nat.mod_eq_of_lt hlt]

/-- The middle of the raw range goes to the middle of the result's. -/
theorem rescaleUnsigned_middle {n bd : Nat} (hn : 1 ≤ n) (hbd : 1 ≤ bd) :
    rescaleUnsigned n bd (2 ^ (bd - 1)) = 2 ^ (n - 1) := by
  have hr : 2 ^ (bd - 1) < 2 ^ bd := Nat.pow_lt_pow_right (by omega) (by omega)
  obtain h | h := Nat.lt_or_ge n bd
  · rw [rescaleUnsigned_of_lt_of_lt_two_pow h hr, Nat.pow_div (by omega) (by omega),
      show bd - 1 - (bd - n) = n - 1 by omega]
  · rw [rescaleUnsigned_of_le_of_lt_two_pow h hr, ← Nat.pow_add, show bd - 1 + (n - bd) = n - 1 by omega]

theorem rescaleUnsigned_zero (n bd : Nat) : rescaleUnsigned n bd 0 = 0 := by
  rw [rescaleUnsigned, Nat.zero_shiftLeft, Nat.zero_shiftRight, ite_self, Nat.zero_mod]

theorem SampleWidth.one_le_bits (w : SampleWidth) : 1 ≤ w.bits := by
  cases w <;> decide

/-- The signed result lies in the signed range of its width (R293). -/
theorem rescaleSigned_range {n : Nat} (hn : 1 ≤ n) (bd r : Nat) :
    -(2 ^ (n - 1) : Int) ≤ rescaleSigned n bd r ∧ rescaleSigned n bd r < 2 ^ (n - 1) := by
  have hlt : (rescaleUnsigned n bd r : Int) < 2 ^ n := mod_cast rescaleUnsigned_lt n bd r
  have hdouble : (2 : Int) ^ n = 2 ^ (n - 1) * 2 := by rw [← pow_succ, Nat.sub_add_cancel hn]
  unfold rescaleSigned
  omega

/-- Settles O48: the shift by the sign of the difference of the widths, and the offset of half the range. -/
theorem rescaledResultsFillTheRange : Obligations.RescaledResultsFillTheRange := by
  intro w bd r hbd _
  obtain ⟨hlow, hhigh⟩ := rescaleSigned_range w.one_le_bits bd r
  refine ⟨fun h => rescaleUnsigned_of_le h r, fun h => rescaleUnsigned_of_lt h r, rescaleUnsigned_lt .., rfl, hlow,
    hhigh, fun hr => ⟨fun h => rescaleUnsigned_of_le_of_lt_two_pow h hr,
      fun h => rescaleUnsigned_of_lt_of_lt_two_pow h hr, fun hzero => ?zero, fun hmiddle => ?middle⟩⟩
  case zero =>
    rw [hzero, rescaleSigned, rescaleUnsigned_zero, Nat.cast_zero, zero_sub]
  case middle =>
    rw [hmiddle, rescaleSigned, rescaleUnsigned_middle w.one_le_bits hbd, Nat.cast_pow, Nat.cast_ofNat, sub_self]

/-- Settles O49: the three calls run the same sample, and answer its value or that value rescaled. -/
theorem rescaledVariantsAreOneSample : Obligations.RescaledVariantsAreOneSample := by
  intro w s t v h
  obtain ⟨u, x, hsample⟩ := produceSample_next s
  obtain ⟨hraw, hrescaled⟩ := hostCall_sample hsample
  rw [hraw] at h
  cases h
  exact hrescaled w

end Sys2Proof.Machine
end

section
/-! PROOFS. The configuration calls, the refusals of the interface and the calls of a core's life (R289 to R294,
R314, R321, R330 to R334). -/

namespace Sys2Proof.Machine

/-! ### Configuration calls -/

theorem Chan.ofNat?_index (i : Chan) : Chan.ofNat? i.index = some i := by
  cases i <;> rfl

theorem Chan.ofNat?_eq_none {n : Nat} (h : 4 < n) : Chan.ofNat? n = none := by
  fun_cases Chan.ofNat? n
  case case6 => rfl
  all_goals omega

theorem setMute_of_index (i : Chan) (b : Bool) (s : State) : setMute i.index b s =
    { s with settings := { s.settings with mute := s.settings.mute.set i b } } := by
  rw [setMute, Chan.ofNat?_index]

theorem setMute_of_gt {n : Nat} (h : 4 < n) (b : Bool) (s : State) : setMute n b s = s := by
  rw [setMute, Chan.ofNat?_eq_none h]

theorem setQuality_quality_eq_mean_iff (l : Nat) (s : State) :
    (setQuality l s).settings.quality = .mean ↔ 1 ≤ l ∧ s.settings.scratchAvailable = true := by
  unfold setQuality
  cases s.settings.scratchAvailable
  · simp
  · simp [Nat.one_le_iff_ne_zero]

/-- Settles O50: each call's equation, for the arguments it lets through. -/
theorem configurationCalls : Obligations.ConfigurationCalls := by
  refine ⟨fun s c r alloc hc hr => ?rates, fun s => ⟨rfl, rfl⟩,
    fun s l => ⟨rfl, setQuality_quality_eq_mean_iff l s⟩,
    fun s b => ⟨fun n hn => setMute_of_gt hn b s, fun i => ?mute⟩⟩
  case rates =>
    refine ⟨_, setClockAndRate_of_pos hc hr alloc s, tickRatio_eq c r, fun h => ?_, fun h => ?_, rfl⟩ <;>
      rw [h] <;> rfl
  case mute =>
    rw [setMute_of_index]
    exact ⟨PerChan.get_set_self .., fun j hj => PerChan.get_set_ne _ _ hj, rfl⟩

/-! ### Refusals -/

theorem enqueueWrite_of_address_gt {a : Nat} (h : 127 < a) (d : Nat) (s : State) :
    enqueueWrite a d s = .refused .addressAbove127 := if_pos h

theorem enqueueWrite_of_data_gt {a d : Nat} (ha : a ≤ 127) (hd : 255 < d) (s : State) :
    enqueueWrite a d s = .refused .dataAbove255 := by
  rw [enqueueWrite, if_neg (Nat.not_lt.2 ha), if_pos hd]

theorem setClockAndRate_of_zero_rate {c : Nat} (h : 0 < c) (alloc : Bool) (s : State) :
    setClockAndRate c 0 alloc s = .refused .zeroSampleRate := by
  rw [setClockAndRate, if_neg h.ne', if_pos rfl]

theorem outputTypeOf_eq_none {n : Nat} (h : 1 < n) : outputTypeOf n = none := by
  fun_cases outputTypeOf n
  case case3 => rfl
  all_goals omega

theorem setOutputType_of_gt {n : Nat} (h : 1 < n) (s : State) : setOutputType n s = .refused .unknownOutputType := by
  rw [setOutputType, outputTypeOf_eq_none h]

/-- A dead handle is refused, in a call and in a destruction (R334). -/
theorem World.dead_refused {w : World} {h : Nat} (hdead : w.find h = none) (c : HostCall) :
    w.call h c = .refused .deadHandle ∧ w.destroy h = .refused .deadHandle := by
  simp [World.call, World.destroy, hdead]

/-- Settles O51: the interface's tests, in the order in which they are made. -/
theorem boundaryRefusals : Obligations.BoundaryRefusals := by
  refine ⟨fun s a d h => ?_, fun s a d ha hd => ?_, fun s r b => rfl, fun s c b h => ?_, fun s n h => ?_,
    fun w a p q h => if_pos h, fun w a p q hc hr => ?_, fun w a p q hc hr hbd => ?_,
    fun w h c hdead => World.dead_refused hdead c⟩
  · rw [hostCall, enqueueWrite_of_address_gt h]
  · rw [hostCall, enqueueWrite_of_data_gt ha hd]
  · rw [hostCall, setClockAndRate_of_zero_rate h]
  · rw [hostCall, setOutputType_of_gt h]
  · rw [World.create, if_neg hc.ne', if_pos hr]
  · rw [World.create, if_neg hc.ne', if_neg hr.ne', if_pos (by omega)]

/-! ### Reset -/

/-- Settles O52: the reset call writes these values and no other field. -/
theorem resetZeroesTheMusicAndKeepsTheRest : Obligations.ResetZeroesTheMusicAndKeepsTheRest :=
  fun s => ⟨resetCall s, rfl, rfl, rfl, rfl, rfl, rfl, rfl, rfl, rfl⟩

/-! ### Instances -/

/-- Arguments in range reach the first allocation, whose draw decides (R297, R333). -/
theorem World.create_of_in_range {a : CreateArgs} (hclock : 0 < a.clockHz) (hrate : 0 < a.sampleRateHz)
    (hlow : 1 ≤ a.outputBitdepth) (hhigh : a.outputBitdepth ≤ 32) (scratch : Bool) (w : World) :
    World.create a false scratch w = .next (w, .allocationError) ∧
    World.create a true scratch w = .next
      (⟨w.live ++ [(w.nextHandle, State.created a scratch)], w.nextHandle + 1⟩, .handle w.nextHandle) := by
  have hdepth : ¬ (a.outputBitdepth < 1 ∨ 32 < a.outputBitdepth) := by omega
  simp only [World.create, if_neg hclock.ne', if_neg hrate.ne', if_neg hdepth]
  exact ⟨rfl, rfl⟩

/-- A handle not yet given names nothing. -/
theorem World.find_nextHandle {w : World} (h : ∀ e ∈ w.live, e.1 < w.nextHandle) : w.find w.nextHandle = none := by
  rw [World.find, List.lookup_eq_none_iff]
  intro e he
  simpa using (h e he).ne'

theorem World.find_append (live : List (Nat × State)) (n m h : Nat) (s : State) :
    World.find ⟨live ++ [(n, s)], m⟩ h = (World.find ⟨live, m⟩ h).or (if h == n then some s else none) := by
  rw [World.find, List.lookup_append, World.find, List.lookup_cons, List.lookup_nil]
  cases h == n <;> rfl

/-- Settles O54: the new entry stands under the next handle, which named nothing. -/
theorem createFollowsItsDraws : Obligations.CreateFollowsItsDraws := by
  intro a w scratch hclock hrate hlow hhigh hlive
  obtain ⟨hfailed, hmade⟩ := World.create_of_in_range hclock hrate hlow hhigh scratch w
  have hfresh : World.find ⟨w.live, w.nextHandle + 1⟩ w.nextHandle = none := World.find_nextHandle hlive
  refine ⟨hfailed, _, hmade, ?new, fun h hne => ?others, fun e he => ?bound, rfl, rfl, rfl⟩
  case new => rw [World.find_append, hfresh, beq_self_eq_true, if_pos rfl, Option.none_or]
  case others =>
    rw [World.find_append, if_neg (by simpa using hne), Option.or_none]
    rfl
  case bound =>
    obtain he | he := List.mem_append.1 he
    · exact Nat.lt_succ_of_lt (hlive e he)
    · rw [List.mem_singleton.1 he]
      exact Nat.lt_succ_self _

/-- Storing under a live handle replaces what it names, and what no other handle names. -/
theorem World.find_store (w : World) (h k : Nat) (s : State) :
    (w.store h s).find k = if k = h then (w.find h).map fun _ => s else w.find k := by
  simp only [World.store, World.find]
  induction w.live with
  | nil => simp
  | cons e live ih =>
    obtain ⟨n, x⟩ := e
    by_cases hn : n = h
    · subst hn
      by_cases hk : k = n
      · simp [hk]
      · simp [hk, List.lookup_cons, beq_false_of_ne hk, ih]
    · by_cases hk : k = h
      · subst hk
        simp [hn, List.lookup_cons, beq_false_of_ne (Ne.symm hn), ih]
      · simp [hn, hk, List.lookup_cons, ih]

/-- Without its entries a handle names nothing, and every other handle names what it named. -/
theorem World.find_filter (w : World) (h k : Nat) :
    World.find { w with live := w.live.filter fun e => e.1 != h } k = if k = h then none else w.find k := by
  unfold World.find
  induction w.live with
  | nil => simp
  | cons e live ih =>
    obtain ⟨n, x⟩ := e
    by_cases hn : n = h
    · subst hn
      rw [List.filter_cons_of_neg (by simp), ih]
      split
      case isTrue => rfl
      case isFalse hk => rw [List.lookup_cons, beq_false_of_ne hk]
    · rw [List.filter_cons_of_pos (by simpa using hn), List.lookup_cons, ih, List.lookup_cons]
      by_cases hk : k = h
      · rw [if_pos hk, if_pos hk, beq_false_of_ne (hk ▸ Ne.symm hn)]
      · rw [if_neg hk, if_neg hk]

/-- A call that answers a next world found a core under the handle, and stored the state of that core's call. -/
theorem World.call_next {w w' : World} {h : Nat} {c : HostCall} {r : CallResult} (hcall : w.call h c = .next (w', r)) :
    ∃ s t, w.find h = some s ∧ hostCall c s = .next (t, r) ∧ w' = w.store h t := by
  unfold World.call at hcall
  split at hcall
  case h_1 => cases hcall
  case h_2 s hs =>
    split at hcall
    case h_1 t r' ht =>
      cases hcall
      exact ⟨s, t, hs, ht, rfl⟩
    all_goals cases hcall

/-- A destruction that answers a next world has removed the handle's entries. -/
theorem World.destroy_next {w w' : World} {h : Nat} {r : CallResult} (hdestroy : w.destroy h = .next (w', r)) :
    w' = { w with live := w.live.filter fun e => e.1 != h } := by
  unfold World.destroy at hdestroy
  split at hdestroy <;> cases hdestroy
  rfl

/-- Settles O55: a call stores under its own handle and a destruction removes its own entries. -/
theorem instancesNeverShareState : Obligations.InstancesNeverShareState := by
  refine fun w h => ⟨fun c w' r hcall => ?_, fun w' r hdestroy => ?_⟩
  · obtain ⟨s, t, hs, ht, rfl⟩ := World.call_next hcall
    refine ⟨fun k hk => ?_, s, t, hs, ht, ?_⟩
    · rw [World.find_store, if_neg hk]
    · rw [World.find_store, if_pos rfl, hs]
      rfl
  · rw [World.destroy_next hdestroy]
    refine ⟨?_, fun k hk => ?_⟩
    · rw [World.find_filter, if_pos rfl]
    · rw [World.find_filter, if_neg hk]

end Sys2Proof.Machine
end
